-- ==== Sys2Proof/Word.lean ====
section
/-! DEFINITION. The plainest types of the model: bytes, rank and bank numbers, and a value kept once for each rank. -/

namespace Sys2Proof

/-- A byte of the management port (R153). -/
abbrev Byte := BitVec 8

/-- A rank number, 0 or 1 (spec/00, section 5). -/
abbrev Rank := Fin 2

/-- A bank number of a rank, 0 to 15 (spec/00, section 5). -/
abbrev Bank := Fin 16

/-- One value for each of the two ranks. -/
structure PerRank (α : Type) where
  rank0 : α
  rank1 : α
  deriving DecidableEq, Repr

namespace PerRank

/-- The value of rank `r`. -/
def get {α : Type} (p : PerRank α) (r : Rank) : α :=
  if r = 0 then p.rank0 else p.rank1

/-- The pair with the value of rank `r` replaced. -/
def set {α : Type} (p : PerRank α) (r : Rank) (x : α) : PerRank α :=
  if r = 0 then { p with rank0 := x } else { p with rank1 := x }

/-- The pair with both values changed by `f`. -/
def map {α β : Type} (p : PerRank α) (f : α → β) : PerRank β :=
  ⟨f p.rank0, f p.rank1⟩

end PerRank

end Sys2Proof
end

