-- ==== Sys2Proof/Syntax.lean ====
section
/-! DEFINITION. The commands the block takes: one constructor for each row of spec/opcode_table.json.
The rows of the table carry no bits; the operands are those the rules give (spec/12: beats and management framing). -/

namespace Sys2Proof

/-- The fields of a FIRST beat besides its marker (R113; spec/12, section 12.1). -/
structure FirstBeat where
  opcode : BitVec 4
  rank   : Rank
  bank   : Bank
  aux    : BitVec 9
  deriving DecidableEq, Repr

/-- The fields of a SECOND beat besides its marker. Bits (16-0) are the operand; for READ and WRITE bit (16)
is the close-after flag (R168). -/
structure SecondBeat where
  parity  : Bool
  operand : BitVec 17
  deriving DecidableEq, Repr

/-- The beats that can reveal a framing fault without being a FIRST beat (R114, R115). The content of an IDLE or
INVALID beat is disregarded (R113). -/
inductive FaultBeat where
  | idle
  | second (beat : SecondBeat)
  | invalid
  deriving DecidableEq, Repr

/-- A command of the block. The operands of management requests are the bytes as received: nothing is masked (R169).
`early` on an engine instant says that it falls in the slot of the beat last taken, not in the slot in progress
(DESIGN CHOICE, safe, log 5). -/
inductive Instr where
  -- the upstream link
  | firstBeat (beat : FirstBeat)
  | framingFault (beat : FaultBeat)
  | openRow (beat : SecondBeat)
  | closeBank (beat : SecondBeat)
  | closeAll (beat : SecondBeat)
  | read (beat : SecondBeat)
  | write (beat : SecondBeat)
  | refresh (beat : SecondBeat)
  | sleepEnter (beat : SecondBeat)
  | sleepExit (beat : SecondBeat)
  | modeSet (beat : SecondBeat)
  | modeGet (beat : SecondBeat)
  | serviceGrant (beat : SecondBeat)
  | undefinedOpcode (beat : SecondBeat)
  -- the output pins
  | portEmit (rank : Rank)
  | alertPulse
  -- the service engine
  | engineOpen (early : Bool)
  | engineClose (early : Bool)
  | windowExpiry
  -- tables and time
  | trackingWindowClose (rank : Rank)
  | stalenessExpiry
  | coverageTick
  -- resets
  | resetFalling
  | resetRising
  | powerOnReset (resetHigh : Bool) (straps : BitVec 2)
  -- management requests
  | status
  | readParameter (identifier rank : Byte)
  | trackWrite (rank : Byte) (value : BitVec 24)
  | rowsWrite (rank : Byte) (value : BitVec 24)
  | sectionWrite (rank : Byte) (value : BitVec 24)
  | maskWrite (rank : Byte) (value : BitVec 24)
  | radiusWrite (rank : Byte) (value : BitVec 24)
  | tServiceWrite (rank : Byte) (value : BitVec 24)
  | tUrgentWrite (rank : Byte) (value : BitVec 24)
  | tCeilingWrite (rank : Byte) (value : BitVec 24)
  | windowRefreshesWrite (rank : Byte) (value : BitVec 24)
  | debtLimitWrite (rank : Byte) (value : BitVec 24)
  | grantLenWrite (rank : Byte) (value : BitVec 24)
  | refreshLenWrite (rank : Byte) (value : BitVec 24)
  | stepTimeWrite (rank : Byte) (value : BitVec 24)
  | coverTimeWrite (rank : Byte) (value : BitVec 24)
  | stalePeriodWrite (rank : Byte) (value : BitVec 24)
  | refusalDistanceWrite (rank : Byte) (value : BitVec 24)
  | setBand (band : Byte)
  | readTable (rank bank : Byte)
  | readQueue
  | takeRefusal
  | injectJob (rank bank : Byte) (row : BitVec 24) (cls : Byte)
  | clearRank (rank : Byte)
  | writeRepair (rank bank : Byte) (row : BitVec 24) (spare : Byte)
  | eraseRepair (rank bank : Byte) (row : BitVec 24)
  | readRepair (rank : Byte)
  | readStatistics
  | clearStatistics
  | restart (early : Bool)
  | unknown (code : Byte)
  -- management transactions
  | responseRead (count : Nat)
  | requestDropped (bytes : List Byte)
  | writeParameterUnknownIdentifier (identifier rank : Byte) (value : BitVec 24)
  deriving DecidableEq, Repr

end Sys2Proof
end

