-- ==== Sys2Proof/WellFormed.lean ====
section
/-! DEFINITION. Which terms spell a row of the table: three rows restrict their operands (R154, R158). -/

namespace Sys2Proof

/-- Operand bytes of a defined request code, none for an undefined one (spec/12, section 12.2). -/
def requestOperands (code : Byte) : Option Nat :=
  match code.toNat with
  | 0x01 => some 0
  | 0x02 => some 2
  | 0x03 => some 5
  | 0x04 => some 1
  | 0x05 => some 2
  | 0x06 => some 0
  | 0x07 => some 0
  | 0x08 => some 6
  | 0x09 => some 1
  | 0x0A => some 6
  | 0x0B => some 5
  | 0x0C => some 1
  | 0x0D => some 0
  | 0x0E => some 0
  | 0x0F => some 0
  | _ => none

/-- The data bytes of a write transaction that end before the request's last byte (R154 d). -/
def requestIncomplete : List Byte → Bool
  | [] => true
  | code :: operands =>
    match requestOperands code with
    | some n => decide (operands.length < n)
    | none => false

/-- The operands are ones the row admits: UNKNOWN carries an undefined code (R154 b), REQUEST_DROPPED an incomplete
request (R154 d), WRITE_PARAMETER_UNKNOWN_IDENTIFIER an identifier above 0FH (R158). Every other row admits every
operand value, since the part answers each (R169). -/
def Instr.wellFormed : Instr → Bool
  | .unknown code => (requestOperands code).isNone
  | .requestDropped bytes => requestIncomplete bytes
  | .writeParameterUnknownIdentifier identifier _ _ => decide (0x0F < identifier.toNat)
  | _ => true

end Sys2Proof
end

