-- ==== Sys2Proof/Decode.lean ====
section
/-! DEFINITION. What words and bytes spell. The table gives no row any bits (every row's "fields" is empty and none has
"fixed"), so no table word spells a command. The bytes of a write transaction on the management port do: they spell one request
by its code, its identifier and its operand bytes (R154, R158; spec/12, section 12.2), and each request has its bytes. -/

namespace Sys2Proof

/-- The command a word of the table's bits spells: none, since no row of the table has bits. -/
def decodeTableWord (_nbits _w : Nat) : Option Instr := none

/-! ### Requests and their bytes (spec/12, section 12.2) -/

/-- Three bytes as one number, most significant byte first. -/
def joinBytes (high middle low : Byte) : BitVec 24 := high ++ (middle ++ low)

/-- A number in three bytes, most significant byte first. -/
def splitBytes (value : BitVec 24) : List Byte :=
  [value.extractLsb' 16 8, value.extractLsb' 8 8, value.extractLsb' 0 8]

/-- The write of the parameter with this identifier, 00H to 0FH in the order of the parameter table; any other identifier names
no parameter (R158). -/
def parameterWrite (identifier rank : Byte) (value : BitVec 24) : Instr :=
  match identifier.toNat with
  | 0x00 => .trackWrite rank value
  | 0x01 => .rowsWrite rank value
  | 0x02 => .sectionWrite rank value
  | 0x03 => .maskWrite rank value
  | 0x04 => .radiusWrite rank value
  | 0x05 => .tServiceWrite rank value
  | 0x06 => .tUrgentWrite rank value
  | 0x07 => .tCeilingWrite rank value
  | 0x08 => .windowRefreshesWrite rank value
  | 0x09 => .debtLimitWrite rank value
  | 0x0A => .grantLenWrite rank value
  | 0x0B => .refreshLenWrite rank value
  | 0x0C => .stepTimeWrite rank value
  | 0x0D => .coverTimeWrite rank value
  | 0x0E => .stalePeriodWrite rank value
  | 0x0F => .refusalDistanceWrite rank value
  | _ => .writeParameterUnknownIdentifier identifier rank value

/-- The request that a defined code and all its operand bytes spell. `early` is passed on to RESTART, whose instant is that of
its last byte (log 5). -/
def definedRequest (early : Bool) (code : Byte) (operands : List Byte) : Option Instr :=
  match code.toNat with
  | 0x01 =>
    match operands with
    | [] => some .status
    | _ => none
  | 0x02 =>
    match operands with
    | [identifier, rank] => some (.readParameter identifier rank)
    | _ => none
  | 0x03 =>
    match operands with
    | [identifier, rank, high, middle, low] => some (parameterWrite identifier rank (joinBytes high middle low))
    | _ => none
  | 0x04 =>
    match operands with
    | [band] => some (.setBand band)
    | _ => none
  | 0x05 =>
    match operands with
    | [rank, bank] => some (.readTable rank bank)
    | _ => none
  | 0x06 =>
    match operands with
    | [] => some .readQueue
    | _ => none
  | 0x07 =>
    match operands with
    | [] => some .takeRefusal
    | _ => none
  | 0x08 =>
    match operands with
    | [rank, bank, high, middle, low, cls] => some (.injectJob rank bank (joinBytes high middle low) cls)
    | _ => none
  | 0x09 =>
    match operands with
    | [rank] => some (.clearRank rank)
    | _ => none
  | 0x0A =>
    match operands with
    | [rank, bank, high, middle, low, spare] => some (.writeRepair rank bank (joinBytes high middle low) spare)
    | _ => none
  | 0x0B =>
    match operands with
    | [rank, bank, high, middle, low] => some (.eraseRepair rank bank (joinBytes high middle low))
    | _ => none
  | 0x0C =>
    match operands with
    | [rank] => some (.readRepair rank)
    | _ => none
  | 0x0D =>
    match operands with
    | [] => some .readStatistics
    | _ => none
  | 0x0E =>
    match operands with
    | [] => some .clearStatistics
    | _ => none
  | 0x0F =>
    match operands with
    | [] => some (.restart early)
    | _ => none
  | _ => none

/-- The request that the data bytes received so far in a write transaction spell, none while bytes are missing. An undefined
code is a whole request by itself (R154 a, b). -/
def requestCommand (early : Bool) : List Byte → Option Instr
  | [] => none
  | code :: operands =>
    match requestOperands code with
    | some _ => definedRequest early code operands
    | none => if operands = [] then some (.unknown code) else none

/-- The bytes of a write of the parameter with this identifier. -/
def writeBytes (identifier rank : Byte) (value : BitVec 24) : List Byte := 0x03#8 :: identifier :: rank :: splitBytes value

/-- The data bytes of the write transaction that carries a request, code first; none for the rows that are no request. -/
def requestBytes : Instr → Option (List Byte)
  | .status => some [0x01#8]
  | .readParameter identifier rank => some [0x02#8, identifier, rank]
  | .trackWrite rank value => some (writeBytes 0x00#8 rank value)
  | .rowsWrite rank value => some (writeBytes 0x01#8 rank value)
  | .sectionWrite rank value => some (writeBytes 0x02#8 rank value)
  | .maskWrite rank value => some (writeBytes 0x03#8 rank value)
  | .radiusWrite rank value => some (writeBytes 0x04#8 rank value)
  | .tServiceWrite rank value => some (writeBytes 0x05#8 rank value)
  | .tUrgentWrite rank value => some (writeBytes 0x06#8 rank value)
  | .tCeilingWrite rank value => some (writeBytes 0x07#8 rank value)
  | .windowRefreshesWrite rank value => some (writeBytes 0x08#8 rank value)
  | .debtLimitWrite rank value => some (writeBytes 0x09#8 rank value)
  | .grantLenWrite rank value => some (writeBytes 0x0A#8 rank value)
  | .refreshLenWrite rank value => some (writeBytes 0x0B#8 rank value)
  | .stepTimeWrite rank value => some (writeBytes 0x0C#8 rank value)
  | .coverTimeWrite rank value => some (writeBytes 0x0D#8 rank value)
  | .stalePeriodWrite rank value => some (writeBytes 0x0E#8 rank value)
  | .refusalDistanceWrite rank value => some (writeBytes 0x0F#8 rank value)
  | .writeParameterUnknownIdentifier identifier rank value => some (writeBytes identifier rank value)
  | .setBand band => some [0x04#8, band]
  | .readTable rank bank => some [0x05#8, rank, bank]
  | .readQueue => some [0x06#8]
  | .takeRefusal => some [0x07#8]
  | .injectJob rank bank row cls => some (0x08#8 :: rank :: bank :: splitBytes row ++ [cls])
  | .clearRank rank => some [0x09#8, rank]
  | .writeRepair rank bank row spare => some (0x0A#8 :: rank :: bank :: splitBytes row ++ [spare])
  | .eraseRepair rank bank row => some (0x0B#8 :: rank :: bank :: splitBytes row)
  | .readRepair rank => some [0x0C#8, rank]
  | .readStatistics => some [0x0D#8]
  | .clearStatistics => some [0x0E#8]
  | .restart _ => some [0x0F#8]
  | .unknown code => some [code]
  | .firstBeat _ => none
  | .framingFault _ => none
  | .openRow _ => none
  | .closeBank _ => none
  | .closeAll _ => none
  | .read _ => none
  | .write _ => none
  | .refresh _ => none
  | .sleepEnter _ => none
  | .sleepExit _ => none
  | .modeSet _ => none
  | .modeGet _ => none
  | .serviceGrant _ => none
  | .undefinedOpcode _ => none
  | .portEmit _ => none
  | .alertPulse => none
  | .engineOpen _ => none
  | .engineClose _ => none
  | .windowExpiry => none
  | .trackingWindowClose _ => none
  | .stalenessExpiry => none
  | .coverageTick => none
  | .resetFalling => none
  | .resetRising => none
  | .powerOnReset _ _ => none
  | .responseRead _ => none
  | .requestDropped _ => none

/-- The slot flag of a request's instant: RESTART carries one, no other request does. -/
def Instr.early : Instr → Bool
  | .restart early => early
  | _ => false

end Sys2Proof
end

