-- ==== Sys2Proof/Config.lean ====
section
/-! DEFINITION. What the part fixes: sizes and limits that the rules name. No rule leaves a value to the
implementation, so there is no free value here. -/

namespace Sys2Proof.Config

/-- Most entries of a Row Activity Table (R1). -/
def tableSize : Nat := 12

/-- Largest count of an entry (R2). -/
def countMax : Nat := 4095

/-- Largest value of untracked opens (R3). -/
def untrackedMax : Nat := 65535

/-- Least effective threshold (R28). -/
def thresholdMin : Nat := 16

/-- Most records of a repair list (R42). -/
def repairSize : Nat := 16

/-- Spare rows of a bank (R41). -/
def spareRows : Nat := 64

/-- Most held jobs (R57). -/
def queueSize : Nat := 16

/-- Largest value of a job's partial windows field (R55). -/
def partialsMax : Nat := 255

/-- Most steps of a window (R83). -/
def capacityMax : Nat := 4

/-- Beat slots from the SECOND beat of an accepted command to its FIRST beat on the port (R127). -/
def forwardingDelay : Nat := 2

/-- Most records of the refusal log (R137). -/
def logSize : Nat := 8

/-- Largest value of the overflow counter (R137). -/
def overflowMax : Nat := 255

/-- Largest residency count (R148). -/
def residencyMax : Nat := 256

/-- Management address with both straps 0 (R153). -/
def baseAddress : BitVec 7 := 0x58#7

end Sys2Proof.Config
end

