-- ==== Sys2Proof/Machine/State.lean ====
section
/-! DEFINITION. The state of the part, block by block (spec/00, section 3), its reset values, and the ways a step could stop. -/

namespace Sys2Proof.Machine

open Sys2Proof

/-- The reasons a step could stop with a fault. There are none: no rule lets a command stop the part, every command that is
not carried out is a refusal on ALERT/ or a response code, both of which are next states. Safe. -/
inductive Fault where
  deriving DecidableEq, Repr

/-- The reasons a step could be without meaning. -/
inductive Refusal where
  /-- A row whose meaning is not written. No arm of `exec` answers it now. Safe. -/
  | notModelled (mnemonic : String)
  deriving DecidableEq, Repr

/-! ### Activity tables (R1 to R3) -/

/-- An entry of a Row Activity Table (R2). -/
structure Entry where
  row       : Nat
  count     : Nat
  inherited : Bool
  mark      : Bool
  deriving DecidableEq, Repr

/-- A table in age order with its bank record (R1, R3). -/
structure BankContext where
  entries   : List Entry
  floor     : Nat
  untracked : Nat
  saturated : Bool
  deriving DecidableEq, Repr

/-- A cleared table and bank record (R21). -/
def BankContext.empty : BankContext :=
  { entries := [], floor := 0, untracked := 0, saturated := false }

/-! ### Neighbour unit (R38, R42) -/

/-- The bank field of a repair record: a numbered bank or ALL (R42). -/
inductive RepairBank where
  | one (bank : Bank)
  | all
  deriving DecidableEq, Repr

/-- A repair record (R42). -/
structure RepairRecord where
  bank  : RepairBank
  row   : Nat
  spare : Nat
  deriving DecidableEq, Repr

/-- The fourteen per-rank parameters, in their units (spec/10, section 10.4). -/
structure RankParams where
  track           : Bool
  rows            : Nat
  section_        : Nat
  mask            : Nat
  radius          : Nat
  tService        : Nat
  tUrgent         : Nat
  tCeiling        : Nat
  windowRefreshes : Nat
  debtLimit       : Nat
  grantLen        : Nat
  refreshLen      : Nat
  stepTime        : Nat
  coverTime       : Nat
  deriving DecidableEq, Repr

/-- The defaults (spec/10, section 10.4). -/
def RankParams.default : RankParams :=
  { track := false, rows := 65536, section_ := 1024, mask := 0, radius := 2
    tService := 512, tUrgent := 1024, tCeiling := 1536
    windowRefreshes := 8192, debtLimit := 2
    grantLen := 200, refreshLen := 35, stepTime := 6, coverTime := 64 }

/-! ### Rank state unit (R142, R148) -/

/-- The state of a rank (R142). -/
inductive RankState where
  | resetHold
  | awake
  | service
  | asleep
  deriving DecidableEq, Repr

/-- A coverage timer: STOPPED, or RUNNING with its residency count (R148). -/
inductive CoverageTimer where
  | stopped
  | running (residency : Nat)
  deriving DecidableEq, Repr

/-! ### Rank ports (R127, R128) -/

/-- A beat on a rank port and the slot it takes. -/
structure PortBeat where
  slot : Nat
  word : BitVec 20
  deriving DecidableEq, Repr

/-- Everything kept once per rank. `port` lists the beats placed and not yet left, first to leave first; `portOut` is the
beat last driven on the pins (DESIGN CHOICE, safe, log 14). -/
structure RankUnit where
  params       : RankParams
  repairs      : List RepairRecord
  state        : RankState
  coverage     : CoverageTimer
  refreshCount : Nat
  debt         : Nat
  contexts     : Vector BankContext 16
  bankOpen     : Vector Bool 16
  port         : List PortBeat
  portOut      : Option PortBeat
  deriving DecidableEq, Repr

/-! ### Mitigation queue (R55, R61, R73) -/

/-- The class of a job (R55). -/
inductive JobClass where
  | normal
  | urgent
  deriving DecidableEq, Repr

/-- The origin of a job (R55). -/
inductive Origin where
  | count
  | injected
  deriving DecidableEq, Repr

/-- The state of a job (R55). -/
inductive JobState where
  | waiting
  | staged
  | running
  deriving DecidableEq, Repr

/-- A job (R55). -/
structure Job where
  number   : BitVec 8
  rank     : Rank
  bank     : Bank
  row      : Nat
  cls      : JobClass
  origin   : Origin
  enqueued : Nat
  state    : JobState
  victims  : Option (List Nat)
  served   : Nat
  partials : Nat
  deriving DecidableEq, Repr

/-- The nine statistics counters, 32-bit wrapping (R73). -/
structure Stats where
  enqueued  : BitVec 32
  done      : BitVec 32
  empty     : BitVec 32
  covered   : BitVec 32
  discarded : BitVec 32
  partials  : BitVec 32
  converted : BitVec 32
  vacant    : BitVec 32
  repaid    : BitVec 32
  deriving DecidableEq, Repr

/-- All nine counters 0 (R74). -/
def Stats.zero : Stats :=
  { enqueued := 0, done := 0, empty := 0, covered := 0, discarded := 0
    partials := 0, converted := 0, vacant := 0, repaid := 0 }

/-- The mitigation queue: the ordered list, the job number counter, the queue-full flag and the statistics. The staged slot is
the job of the list in state STAGED (R66). -/
structure Queue where
  list       : List Job
  nextNumber : BitVec 8
  full       : Bool
  stats      : Stats
  deriving DecidableEq, Repr

/-! ### Service engine (R80, R90) -/

/-- How a window started (R80). -/
inductive WindowKind where
  | granted
  | converted
  deriving DecidableEq, Repr

/-- What a window is used for; a JOB window carries the job of the active slot (R80). -/
inductive Purpose where
  | job (j : Job)
  | vacant
  | repay
  deriving DecidableEq, Repr

/-- The window record (R80) with the step time fixed at its start (R83), the complete steps and whether a step is in
progress (R84). Lengths and times are in units of 10 ns. -/
structure Window where
  rank      : Rank
  kind      : WindowKind
  purpose   : Purpose
  length    : Nat
  capacity  : Nat
  stepTime  : Nat
  start     : Nat
  stepsDone : Nat
  stepOpen  : Bool
  deriving DecidableEq, Repr

/-- The kind of an outcome (R90). -/
inductive OutcomeKind where
  | done
  | partialEnd
  | empty
  | vacant
  | repaid
  | aborted
  deriving DecidableEq, Repr

/-- An outcome record (R90). -/
structure Outcome where
  kind       : OutcomeKind
  windowKind : Option WindowKind
  rank       : Rank
  job        : Option (BitVec 8)
  served     : Nat
  listed     : Nat
  deriving DecidableEq, Repr

/-- The service engine: the window in progress, if any, and the outcome history (R91). -/
structure Engine where
  window   : Option Window
  newest   : Option Outcome
  previous : Option Outcome
  deriving DecidableEq, Repr

/-! ### Threshold unit (R27, R30) -/

/-- The staleness timer: STOPPED, or RUNNING with its period and the 1 ms boundaries met since its start (R30). -/
inductive StaleTimer where
  | stopped
  | running (period measured : Nat)
  deriving DecidableEq, Repr

/-- The device-wide part of the threshold unit. -/
structure Bands where
  band        : Fin 4
  stale       : Bool
  stalePeriod : Nat
  timer       : StaleTimer
  deriving DecidableEq, Repr

/-! ### Refusal unit (R132, R137) -/

/-- The ten refusal reasons, in the order of R170. -/
inductive Reason where
  | parity
  | framing
  | undefined
  | asleep
  | notAsleep
  | window
  | engineBusy
  | bankOpen
  | bankClosed
  | rowHold
  deriving DecidableEq, Repr

/-- A refusal report (R133): the reason and the fields that exist. Opcode and rank are present together. -/
structure Report where
  reason  : Reason
  source  : Option (BitVec 4 × Rank)
  bank    : Option Bank
  operand : Option (BitVec 17)
  deriving DecidableEq, Repr

/-- A record of the refusal log (R137). -/
structure LogRecord where
  sequence : BitVec 16
  report   : Report
  deriving DecidableEq, Repr

/-- The refusal unit. `schedule` lists the slots of pending pulses, the next first; `alert` is the slot in which ALERT/ was
last driven low (DESIGN CHOICE, safe, log 14). -/
structure Refusals where
  schedule : List Nat
  alert    : Option Nat
  sequence : BitVec 16
  log      : List LogRecord
  overflow : Nat
  distance : Nat
  deriving DecidableEq, Repr

/-! ### Management port (R154, R155) -/

/-- The nine response codes, in the order of their encodings (spec/12, section 12.2). -/
inductive ResponseCode where
  | ok
  | busy
  | range
  | state
  | exists_
  | queueFull
  | tableFull
  | empty
  | unknown
  deriving DecidableEq, Repr

/-- A held response: code, body and read position (spec/10, section 10.2). -/
structure Response where
  code     : ResponseCode
  body     : List Byte
  position : Nat
  deriving DecidableEq, Repr

/-- A request being received: its code and the operand bytes so far (spec/10, section 10.2). -/
structure Request where
  code     : Byte
  operands : List Byte
  deriving DecidableEq, Repr

/-- What the port meets on the two-wire bus (R153): a start or repeated start condition, a stop condition, a byte that the
controller of the bus sends, or a byte that it takes from the part together with the acknowledge bit it answers. `early` says
that the acknowledge bit of the byte falls in the slot of the beat last taken (DESIGN CHOICE, safe, log 5). -/
inductive BusEvent where
  | start
  | stop
  | byte (value : Byte) (early : Bool)
  | read (acknowledged : Bool)
  deriving DecidableEq, Repr

/-- Where the transaction on the bus stands for the port (R153 to R155): none since power-on or the last stop; the address byte
to come; not addressed; a request being received; the request has taken effect; bytes being returned. -/
inductive BusPhase where
  | free
  | addressing
  | released
  | writing
  | over
  | reading
  deriving DecidableEq, Repr

/-- The management port. `ack` is whether the part drives MDA low in the acknowledge bit of the last byte (R153), and `mda` the
bytes it returned in the last read transaction (DESIGN CHOICE, safe, log 14). -/
structure Mgmt where
  address  : BitVec 7
  request  : Option Request
  response : Option Response
  bus      : BusPhase
  ack      : Bool
  mda      : List Byte
  deriving DecidableEq, Repr

/-! ### Link receiver and clocks (R113, R114) -/

/-- The assembly state, NONE when `held` is none (R114), and the level of RESET/ (R129). -/
structure Link where
  held      : Option FirstBeat
  resetHigh : Bool
  deriving DecidableEq, Repr

/-- The beat slot in progress and the reading of the internal time base in units of 10 ns (log 3, log 6). -/
structure Clock where
  slot : Nat
  time : Nat
  deriving DecidableEq, Repr

/-! ### The whole part -/

/-- The state of the part, the queue of waiting commands (DESIGN CHOICE, safe, log 1), and what is still to come on the
two-wire bus (DESIGN CHOICE, safe, log 21). -/
structure State where
  pending  : List Instr
  wire     : List BusEvent
  clock    : Clock
  link     : Link
  ranks    : PerRank RankUnit
  bands    : Bands
  queue    : Queue
  engine   : Engine
  refusals : Refusals
  mgmt     : Mgmt
  deriving DecidableEq, Repr

/-- What a step of this machine answers. -/
abbrev Answer := Host.Outcome State Fault Refusal

/-! ### Reset values -/

/-- A rank at power-on: AWAKE if RESET/ is high, RESET HOLD if it is low (R145); everything else empty or at its default
(R22, R54, R112, R126, R129, R152). -/
def RankUnit.powerOn (resetHigh : Bool) : RankUnit :=
  { params := RankParams.default
    repairs := []
    state := if resetHigh then .awake else .resetHold
    coverage := .stopped
    refreshCount := 0
    debt := 0
    contexts := Vector.replicate 16 BankContext.empty
    bankOpen := Vector.replicate 16 false
    port := []
    portOut := none }

/-- The threshold unit at power-on: band 3, not stale, timer running with 32 ms (R37). -/
def Bands.powerOn : Bands :=
  { band := 3, stale := false, stalePeriod := 32, timer := .running 32 0 }

/-- The queue at power-on (R79). -/
def Queue.powerOn : Queue :=
  { list := [], nextNumber := 0, full := false, stats := Stats.zero }

/-- The engine at power-on (R99). -/
def Engine.powerOn : Engine :=
  { window := none, newest := none, previous := none }

/-- The refusal unit at power-on (R141). -/
def Refusals.powerOn : Refusals :=
  { schedule := [], alert := none, sequence := 0, log := [], overflow := 0, distance := 6 }

/-- The management port at power-on: the address is 58H plus the straps (R153), no transaction in
progress, nothing received, nothing to answer (R166). -/
def Mgmt.powerOn (straps : BitVec 2) : Mgmt :=
  { address := Config.baseAddress + straps.setWidth 7, request := none, response := none
    bus := .free, ack := false, mda := [] }

/-- The part right after power-on reset with the given levels of RESET/ and of the straps, the given commands waiting, and
nothing to come on the bus. Slot and time base are numbered from 0 (DESIGN CHOICE, safe, log 3, log 6). -/
def State.powerOn (pending : List Instr) (resetHigh : Bool) (straps : BitVec 2) : State :=
  { pending := pending
    wire := []
    clock := { slot := 0, time := 0 }
    link := { held := none, resetHigh := resetHigh }
    ranks := ⟨RankUnit.powerOn resetHigh, RankUnit.powerOn resetHigh⟩
    bands := Bands.powerOn
    queue := Queue.powerOn
    engine := Engine.powerOn
    refusals := Refusals.powerOn
    mgmt := Mgmt.powerOn straps }

/-- The machine right after reset: power-on with RESET/ high and both straps 0 (DESIGN CHOICE, unsafe, log 11). -/
def State.reset : State := State.powerOn [] true 0

end Sys2Proof.Machine
end

