-- ==== Sys2Proof/Machine/Operands.lean ====
section
/-! DEFINITION. Operands: the words of beats and their parity (spec/12, section 12.1), the opcode set (R117), the fields a
refusal reports (R133), and the reading of management operand bytes (R157, R169). -/

namespace Sys2Proof.Machine

open Sys2Proof

/-! ### Beats -/

/-- The 20 bits of a FIRST beat: marker 01, opcode, rank, bank, auxiliary (spec/12, section 12.1). -/
def firstWord (f : FirstBeat) : BitVec 20 :=
  0b01#2 ++ (f.opcode ++ (BitVec.ofNat 1 f.rank.val ++ (BitVec.ofNat 4 f.bank.val ++ f.aux)))

/-- The 20 bits of a SECOND beat: marker 10, parity bit, operand (spec/12, section 12.1). -/
def secondWord (b : SecondBeat) : BitVec 20 :=
  0b10#2 ++ (BitVec.ofBool b.parity ++ b.operand)

/-- An IDLE beat as the part drives it: all 20 bits 0 (R168 b). -/
def idleWord : BitVec 20 := 0#20

/-- The number of ones of a word. -/
def ones {w : Nat} (x : BitVec w) : Nat :=
  (List.range w).countP fun i => x.getLsbD i

/-- Parity over every bit of both beats, markers and parity bit included, is even (R119). -/
def parityEven (f : FirstBeat) (b : SecondBeat) : Bool :=
  (ones (firstWord f) + ones (secondWord b)) % 2 == 0

/-! ### Opcodes (R117; values in spec/12, section 12.1) -/

/-- Opcode of OPEN. -/
def opOpen : BitVec 4 := 0x1#4
/-- Opcode of CLOSE. -/
def opClose : BitVec 4 := 0x2#4
/-- Opcode of CLOSE ALL. -/
def opCloseAll : BitVec 4 := 0x3#4
/-- Opcode of READ. -/
def opRead : BitVec 4 := 0x4#4
/-- Opcode of WRITE. -/
def opWrite : BitVec 4 := 0x5#4
/-- Opcode of REFRESH. -/
def opRefresh : BitVec 4 := 0x6#4
/-- Opcode of SLEEP ENTER. -/
def opSleepEnter : BitVec 4 := 0x7#4
/-- Opcode of SLEEP EXIT. -/
def opSleepExit : BitVec 4 := 0x8#4
/-- Opcode of MODE SET. -/
def opModeSet : BitVec 4 := 0x9#4
/-- Opcode of MODE GET. -/
def opModeGet : BitVec 4 := 0xA#4
/-- Opcode of SERVICE GRANT. -/
def opServiceGrant : BitVec 4 := 0xC#4

/-- The eleven defined opcodes (R117). -/
def definedOpcodes : List (BitVec 4) :=
  [opOpen, opClose, opCloseAll, opRead, opWrite, opRefresh, opSleepEnter, opSleepExit, opModeSet, opModeGet, opServiceGrant]

/-- The opcode is one of the eleven defined. -/
def opcodeDefined (op : BitVec 4) : Bool := definedOpcodes.contains op

/-- The opcodes that use a bank: OPEN, CLOSE, READ, WRITE (R133). -/
def usesBank (op : BitVec 4) : Bool :=
  [opOpen, opClose, opRead, opWrite].contains op

/-- The opcodes that use an operand: OPEN, READ, WRITE, MODE SET (R133). -/
def usesOperand (op : BitVec 4) : Bool :=
  [opOpen, opRead, opWrite, opModeSet].contains op

/-- READ and WRITE, which carry a close-after flag (R168). -/
def hasFlag (op : BitVec 4) : Bool :=
  [opRead, opWrite].contains op

/-- The close-after flag of a READ or WRITE: bit (16) of the SECOND beat (R168). -/
def closeAfter (b : SecondBeat) : Bool := b.operand.getLsbD 16

/-- The operand that the acceptance checks pass on and the refusal unit records: the column alone for READ and WRITE,
all 17 bits otherwise (R168). -/
def passedOperand (op : BitVec 4) (b : SecondBeat) : BitVec 17 :=
  if hasFlag op then (b.operand.setWidth 16).setWidth 17 else b.operand

/-- The row an OPEN names: its operand modulo ROWS of the rank (R118). -/
def openRowOf (rows : Nat) (b : SecondBeat) : Nat := b.operand.toNat % rows

/-! ### Refusal reports (R133) -/

/-- The report of a lone SECOND or INVALID beat: no field. -/
def loneReport : Report :=
  { reason := .framing, source := none, bank := none, operand := none }

/-- The report of a held FIRST beat refused for framing: its opcode and rank, its bank if the opcode uses one, no operand. -/
def heldReport (f : FirstBeat) : Report :=
  { reason := .framing
    source := some (f.opcode, f.rank)
    bank := if usesBank f.opcode then some f.bank else none
    operand := none }

/-- The report of a complete command refused for `reason`. -/
def commandReport (reason : Reason) (f : FirstBeat) (b : SecondBeat) : Report :=
  { reason := reason
    source := some (f.opcode, f.rank)
    bank := if usesBank f.opcode then some f.bank else none
    operand := if usesOperand f.opcode then some (passedOperand f.opcode b) else none }

/-! ### Commands the engine builds (R168 c) -/

/-- The FIRST beat of an engine command. -/
def engineFirst (op : BitVec 4) (r : Rank) (bank : Bank) : FirstBeat :=
  { opcode := op, rank := r, bank := bank, aux := 0 }

/-- The SECOND beat of an engine command, its parity bit chosen so that the command has even parity. -/
def engineSecond (f : FirstBeat) (operand : BitVec 17) : SecondBeat :=
  let b : SecondBeat := { parity := false, operand := operand }
  { b with parity := !parityEven f b }

/-! ### Management operand bytes (R157, R169) -/

/-- A rank byte: a rank when it is 0 or 1. -/
def rankOf (x : Byte) : Option Rank :=
  if h : x.toNat < 2 then some ⟨x.toNat, h⟩ else none

/-- A numbered bank byte: a bank when it is 0 to 0FH. -/
def bankOf (x : Byte) : Option Bank :=
  if h : x.toNat < 16 then some ⟨x.toNat, h⟩ else none

/-- A repair request's bank byte: 0 to 0FH, or 10H for ALL (spec/12, section 12.2). -/
def repairBankOf (x : Byte) : Option RepairBank :=
  if x.toNat = 0x10 then some .all else (bankOf x).map .one

/-- A class byte: 0 NORMAL, 1 URGENT (spec/12, section 12.2). -/
def classOf (x : Byte) : Option JobClass :=
  match x.toNat with
  | 0 => some .normal
  | 1 => some .urgent
  | _ => none

end Sys2Proof.Machine
end

