-- ==== Sys2Proof/Machine/Flags.lean ====
section
/-! DEFINITION. What is computed from the state and not stored: the effective band and thresholds (R27, R28), the hold
condition (R13), eligibility (R65), the number of held jobs (R57), the request lines (R92), the forwarded reset (R129), the pin
levels and the status flags (R24, R140). -/

namespace Sys2Proof.Machine

open Sys2Proof

/-! ### Reading and changing one rank or one bank context -/

/-- Everything kept for rank `r`. -/
def State.rank (s : State) (r : Rank) : RankUnit := s.ranks.get r

/-- Rank `r` changed by `f`. -/
def State.modRank (s : State) (r : Rank) (f : RankUnit → RankUnit) : State :=
  { s with ranks := s.ranks.set r (f (s.ranks.get r)) }

/-- The parameters of rank `r`. -/
def State.params (s : State) (r : Rank) : RankParams := (s.rank r).params

/-- The table and bank record of bank context (r, b). -/
def State.context (s : State) (r : Rank) (b : Bank) : BankContext := (s.rank r).contexts.get b

/-- Bank context (r, b) changed by `f`. -/
def State.modContext (s : State) (r : Rank) (b : Bank) (f : BankContext → BankContext) : State :=
  s.modRank r fun u => { u with contexts := u.contexts.set b.val (f (u.contexts.get b)) b.isLt }

/-- The bank state tracker's bit for (r, b): true is OPEN (R124). -/
def State.isOpen (s : State) (r : Rank) (b : Bank) : Bool := (s.rank r).bankOpen.get b

/-- (r, b) set OPEN or CLOSED (R124). -/
def State.setOpen (s : State) (r : Rank) (b : Bank) (v : Bool) : State :=
  s.modRank r fun u => { u with bankOpen := u.bankOpen.set b.val v b.isLt }

/-- Some bank of rank `r` is OPEN (R121). -/
def State.anyOpen (s : State) (r : Rank) : Bool := (s.rank r).bankOpen.toList.any id

/-! ### Thresholds (R27, R28) -/

/-- The effective band: 3 while stale, the band otherwise (R27). -/
def State.effectiveBand (s : State) : Fin 4 := if s.bands.stale then 3 else s.bands.band

/-- A programmed threshold derated for a band: max(16, floor(programmed × (4 − band)/4)) (R28). -/
def derate (programmed : Nat) (band : Fin 4) : Nat :=
  max Config.thresholdMin (programmed * (4 - band.val) / 4)

/-- S(r) (R28). -/
def State.serviceLevel (s : State) (r : Rank) : Nat := derate (s.params r).tService s.effectiveBand

/-- U(r) (R28). -/
def State.urgentLevel (s : State) (r : Rank) : Nat := derate (s.params r).tUrgent s.effectiveBand

/-- C(r) (R28). -/
def State.ceiling (s : State) (r : Rank) : Nat := derate (s.params r).tCeiling s.effectiveBand

/-! ### Entries (R7, R13) -/

/-- The entry naming `row`, if the table holds one. -/
def BankContext.find (c : BankContext) (row : Nat) : Option Entry :=
  c.entries.find? fun e => e.row == row

/-- An entry is held while its count is at or above the ceiling (R13). -/
def Entry.held (ceiling : Nat) (e : Entry) : Bool := decide (ceiling ≤ e.count)

/-- An entry is replaceable when it is neither marked nor held (R7). -/
def Entry.replaceable (ceiling : Nat) (e : Entry) : Bool := !e.mark && !e.held ceiling

/-- The table of (r, b) holds an entry for `row` that is held (R13 a). -/
def State.rowHeld (s : State) (r : Rank) (b : Bank) (row : Nat) : Bool :=
  match (s.context r b).find row with
  | some e => e.held (s.ceiling r)
  | none => false

/-! ### Jobs (R57, R65, R66) -/

/-- The job names this rank, bank and row (R57). -/
def Job.names (j : Job) (r : Rank) (b : Bank) (row : Nat) : Bool :=
  j.rank == r && j.bank == b && j.row == row

/-- The job in the active slot (R80). -/
def State.active (s : State) : Option Job :=
  match s.engine.window with
  | some w =>
    match w.purpose with
    | .job j => some j
    | .vacant => none
    | .repay => none
  | none => none

/-- The held jobs: the list and the active slot (R57). -/
def State.heldJobs (s : State) : List Job := s.queue.list ++ s.active.toList

/-- The number of held jobs (R57). -/
def State.heldCount (s : State) : Nat := s.queue.list.length + (if s.active.isSome then 1 else 0)

/-- A rank whose listed jobs are eligible: AWAKE or in SERVICE (R65). -/
def RankState.serves : RankState → Bool
  | .awake => true
  | .service => true
  | .asleep => false
  | .resetHold => false

/-- A listed job is eligible while its rank is AWAKE or in SERVICE (R65). -/
def State.eligible (s : State) (j : Job) : Bool := (s.rank j.rank).state.serves

/-- The job in the staged slot (R66). -/
def State.staged (s : State) : Option Job := s.queue.list.find? fun j => j.state == .staged

/-- The engine is in WINDOW on rank `r` (R80). -/
def State.windowOn (s : State) (r : Rank) : Bool :=
  match s.engine.window with
  | some w => w.rank == r
  | none => false

/-- The engine is IDLE (R80). -/
def State.idle (s : State) : Bool := s.engine.window.isNone

/-! ### Output levels -/

/-- SREQr/ is asserted: rank r is not in SERVICE, and the staged slot holds a job of rank r or rank r is AWAKE with debt
(R92). -/
def State.serviceRequest (s : State) (r : Rank) : Bool :=
  (s.rank r).state != .service &&
    ((match s.staged with
      | some j => j.rank == r
      | none => false) ||
     ((s.rank r).state == .awake && decide (0 < (s.rank r).debt)))

/-- PrRST/ is low: it follows RESET/ (R129). -/
def State.rankResetLow (s : State) (_r : Rank) : Bool := !s.link.resetHigh

/-- ALERT/ is driven low in slot `n` (R134). -/
def State.alertLow (s : State) (n : Nat) : Bool := s.refusals.alert == some n

/-- The beat rank port `r` carries in slot `n`: the beat driven for that slot, IDLE otherwise (R127, R168 b). -/
def State.portWord (s : State) (r : Rank) (n : Nat) : BitVec 20 :=
  match (s.rank r).portOut with
  | some p => if p.slot = n then p.word else idleWord
  | none => idleWord

/-! ### Status flags (R24, R140) -/

/-- The saturated flag of some bank record of rank `r` is yes (R24). -/
def RankUnit.anySaturated (u : RankUnit) : Bool := u.contexts.toList.any fun c => c.saturated

/-- Some entry of rank `r` is held (R24). -/
def RankUnit.anyHeld (u : RankUnit) (ceiling : Nat) : Bool :=
  u.contexts.toList.any fun c => c.entries.any fun e => e.held ceiling

/-- "any bank saturated" over the 32 bank records (R24). -/
def State.anySaturated (s : State) : Bool :=
  (s.rank 0).anySaturated || (s.rank 1).anySaturated

/-- "any held entry" over all tables (R24). -/
def State.anyHeld (s : State) : Bool :=
  (s.rank 0).anyHeld (s.ceiling 0) || (s.rank 1).anyHeld (s.ceiling 1)

end Sys2Proof.Machine
end

