-- ==== Sys2Proof/Machine/Neighbours.lean ====
section
/-! DEFINITION. The neighbour unit: repair lookups (R42) and the victim computation (R47 to R51). -/

namespace Sys2Proof.Machine

open Sys2Proof

/-- The bank field covers bank `b` (R42). -/
def RepairBank.covers (k : RepairBank) (b : Bank) : Bool :=
  match k with
  | .one c => c == b
  | .all => true

/-- The record that covers (b, row), if any (R42, R43). -/
def coveringRow (repairs : List RepairRecord) (b : Bank) (row : Nat) : Option RepairRecord :=
  repairs.find? fun x => x.bank.covers b && x.row == row

/-- The record that covers (b, spare), if any (R42, R43). -/
def coveringSpare (repairs : List RepairRecord) (b : Bank) (spare : Nat) : Option RepairRecord :=
  repairs.find? fun x => x.bank.covers b && x.spare == spare

/-- The place `k` below `p`, if there is one. -/
def placeBelow (p k : Nat) : List Nat := if k ≤ p then [p - k] else []

/-- The candidates around `p` in the order p−1, p+1, p−2, p+2, the last two only with radius 2 (R49, R51). -/
def candidates (p radius : Nat) : List Nat :=
  placeBelow p 1 ++ [p + 1] ++ (if radius = 2 then placeBelow p 2 ++ [p + 2] else [])

/-- A candidate position passes the three tests of R49: inside the bank, in the section of `p`, its image not repaired. -/
def positionKept (params : RankParams) (repairs : List RepairRecord) (b : Bank) (p c : Nat) : Bool :=
  decide (c < params.rows) && c / params.section_ == p / params.section_ &&
    (coveringRow repairs b (c ^^^ params.mask)).isNone

/-- The victims of an ordinary hot row: the logical images of the kept candidates (R49, R50). -/
def ordinaryVictims (params : RankParams) (repairs : List RepairRecord) (b : Bank) (row : Nat) : List Nat :=
  let p := row ^^^ params.mask
  ((candidates p params.radius).filter (positionKept params repairs b p)).map fun c => c ^^^ params.mask

/-- The victims of a hot row held in spare `s`: the rows of the records covering the candidate spares (R51). -/
def spareVictims (params : RankParams) (repairs : List RepairRecord) (b : Bank) (s : Nat) : List Nat :=
  ((candidates s params.radius).filter fun t => decide (t < Config.spareRows)).filterMap fun t =>
    (coveringSpare repairs b t).map (·.row)

/-- The victim list of a hot row (R48). -/
def victimsOf (params : RankParams) (repairs : List RepairRecord) (b : Bank) (row : Nat) : List Nat :=
  match coveringRow repairs b row with
  | some x => spareVictims params repairs b x.spare
  | none => ordinaryVictims params repairs b row

/-- The victim list of a job with the geometry and repair list of its rank as they stand (R47). -/
def State.victimsFor (s : State) (j : Job) : List Nat :=
  victimsOf (s.params j.rank) (s.rank j.rank).repairs j.bank j.row

/-- Two bank fields share a bank (R43). -/
def RepairBank.meets (k l : RepairBank) : Bool :=
  match k, l with
  | .one a, .one b => a == b
  | _, _ => true

/-- Two records cover a common (bank, row) or (bank, spare) pair (R43, R44 c). -/
def RepairRecord.clashes (x y : RepairRecord) : Bool :=
  x.bank.meets y.bank && (x.row == y.row || x.spare == y.spare)

end Sys2Proof.Machine
end

