-- ==== Sys2Proof/Machine/Ops.lean ====
section
/-! DEFINITION. The operations that the commands share: the tables' (R5 to R19), the queue's (R56 to R72), the engine's
(R80 to R87, R91), the ports' (R127, R128), the refusal unit's (R132 to R137) and the management port's response (R154).
Where a rule presumes an invariant that only unreached states break, what the operation does there is the model's (DESIGN
CHOICE, safe, log 18). -/

namespace Sys2Proof.Machine

open Sys2Proof

/-- The first element that satisfies `p`, with what stands before and behind it. -/
def splitFirst {α : Type} (p : α → Bool) : List α → Option (List α × α × List α)
  | [] => none
  | x :: xs =>
    if p x then some ([], x, xs)
    else
      match splitFirst p xs with
      | some (before, y, behind) => some (x :: before, y, behind)
      | none => none

/-! ### Tables -/

/-- The table names `row`. -/
def BankContext.names (c : BankContext) (row : Nat) : Bool := c.entries.any fun e => e.row == row

/-- The entry of `row` changed by `f`, in its place. -/
def BankContext.change (c : BankContext) (row : Nat) (f : Entry → Entry) : BankContext :=
  { c with entries := c.entries.map fun e => if e.row = row then f e else e }

/-- The entry with the smallest count, the oldest of several (R7). -/
def leastCount : List Entry → Option Entry
  | [] => none
  | e :: es =>
    match leastCount es with
    | some m => if m.count < e.count then some m else some e
    | none => some e

/-- The entry a replacement evicts, if one is replaceable (R7). -/
def BankContext.evictee (c : BankContext) (ceiling : Nat) : Option Entry :=
  leastCount (c.entries.filter (Entry.replaceable ceiling))

/-- Entry `e` evicted and `fresh` created at the tail; the floor takes the evicted count (R7, R18). -/
def BankContext.replace (c : BankContext) (e fresh : Entry) : BankContext :=
  { c with entries := c.entries.erase e ++ [fresh], floor := e.count }

/-- The count of an entry raised by one, saturating (R5). -/
def Entry.raise (e : Entry) : Entry := { e with count := min Config.countMax (e.count + 1) }

/-- A counted activation of `row`, by exactly one of R5, R6, R7 and R8. -/
def BankContext.activate (ceiling row : Nat) (c : BankContext) : BankContext :=
  if c.names row then c.change row Entry.raise
  else if c.entries.length < Config.tableSize then
    { c with entries := c.entries ++ [{ row := row, count := 1, inherited := false, mark := false }] }
  else
    match c.evictee ceiling with
    | some e => c.replace e { row := row, count := e.count + 1, inherited := true, mark := false }
    | none => { c with untracked := min Config.untrackedMax (c.untracked + 1), saturated := true }

/-- The halving of one bank context at a tracking-window close (R19). -/
def BankContext.halve (c : BankContext) : BankContext :=
  { c with
    entries := (c.entries.map fun e => { e with count := e.count / 2 }).filter fun e => e.mark || decide (0 < e.count)
    floor := c.floor / 2
    saturated := false }

/-- The entry of (r, b, row) marked (R16). -/
def State.markEntry (s : State) (r : Rank) (b : Bank) (row : Nat) : State :=
  s.modContext r b fun c => c.change row fun e => { e with mark := true }

/-- The entry of a retiring job reset: count 0, inherited no, mark no (R17). -/
def State.resetEntry (s : State) (r : Rank) (b : Bank) (row : Nat) : State :=
  s.modContext r b fun c => c.change row fun e => { e with count := 0, inherited := false, mark := false }

/-- The tables and bank records of rank `r` cleared (R21). -/
def State.clearTables (s : State) (r : Rank) : State :=
  s.modRank r fun u => { u with contexts := Vector.replicate 16 BankContext.empty }

/-! ### The ordered list -/

/-- The list replaced. -/
def State.setList (s : State) (l : List Job) : State :=
  { s with queue := { s.queue with list := l } }

/-- The job is URGENT. -/
def Job.urgent (j : Job) : Bool := j.cls == .urgent

/-- The job in state WAITING. -/
def Job.wait (j : Job) : Job := { j with state := .waiting }

/-- Directly behind the last URGENT job, at the head if there is none (R62). -/
def insertUrgent (j : Job) (l : List Job) : List Job :=
  l.takeWhile Job.urgent ++ j :: l.dropWhile Job.urgent

/-- The place of a new job: a NORMAL one at the tail, an URGENT one behind the last URGENT job (R62). -/
def placeJob (j : Job) (l : List Job) : List Job :=
  match j.cls with
  | .normal => l ++ [j]
  | .urgent => insertUrgent j l

/-- The queue-full flag cleared once fewer than 16 jobs are held (R59). -/
def State.settleFull (s : State) : State :=
  { s with queue := { s.queue with full := s.queue.full && decide (Config.queueSize ≤ s.heldCount) } }

/-- An outcome pushed into the history (R91). -/
def State.pushOutcome (s : State) (o : Outcome) : State :=
  { s with engine := { s.engine with newest := some o, previous := s.engine.newest } }

/-- The outcome record of an EMPTY retirement (R67 b, R90). -/
def emptyOutcome (j : Job) : Outcome :=
  { kind := .empty, windowKind := none, rank := j.rank, job := some j.number, served := 0, listed := 0 }

/-- Job `j`, standing between `before` and `behind` in the list, retires EMPTY (R67 b). -/
def State.retireEmpty (s : State) (before : List Job) (j : Job) (behind : List Job) : State :=
  let q := { s.queue with list := before ++ behind, stats := { s.queue.stats with empty := s.queue.stats.empty + 1 } }
  ((({ s with queue := q }).settleFull).pushOutcome (emptyOutcome j)).resetEntry j.rank j.bank j.row

/-- Job `j` staged between the others, which are WAITING (R66). -/
def stageAt (before : List Job) (j : Job) (behind : List Job) : List Job :=
  before.map Job.wait ++ { j with state := .staged } :: behind.map Job.wait

/-- The re-evaluation of the staged slot (R66, R67); the fuel is the length of the list, and each round but the last retires
one job EMPTY. -/
def State.restageLoop : Nat → State → State
  | 0, s => s.setList (s.queue.list.map Job.wait)
  | n + 1, s =>
    match splitFirst s.eligible s.queue.list with
    | none => s.setList (s.queue.list.map Job.wait)
    | some (before, j, behind) =>
      match j.victims with
      | some _ => s.setList (stageAt before j behind)
      | none =>
        match s.victimsFor j with
        | [] => State.restageLoop n (s.retireEmpty before j behind)
        | v :: vs => s.setList (stageAt before { j with victims := some (v :: vs) } behind)

/-- The staged slot re-evaluated (R66). -/
def State.restage (s : State) : State := s.restageLoop s.queue.list.length

/-- A new job with the next job number (R56, R58 b). -/
def State.newJob (s : State) (r : Rank) (b : Bank) (row : Nat) (cls : JobClass) (origin : Origin) (count : Nat) : Job :=
  { number := s.queue.nextNumber, rank := r, bank := b, row := row, cls := cls, origin := origin, enqueued := count
    state := .waiting, victims := none, served := 0, partials := 0 }

/-- A job accepted: its entry marked, its number taken, placed in the list, counted in ENQUEUED, and the staged slot
re-evaluated (R16, R56, R58 b, R60). -/
def State.acceptJob (s : State) (r : Rank) (b : Bank) (row : Nat) (cls : JobClass) (origin : Origin) (count : Nat) : State :=
  let q := { s.queue with
    list := placeJob (s.newJob r b row cls origin count) s.queue.list
    nextNumber := s.queue.nextNumber + 1
    stats := { s.queue.stats with enqueued := s.queue.stats.enqueued + 1 } }
  (({ s with queue := q }).markEntry r b row).restage

/-- An enqueue attempt from the tables (R58): refused with the queue-full flag set when 16 jobs are held. -/
def State.enqueueAttempt (s : State) (r : Rank) (b : Bank) (row : Nat) (cls : JobClass) (count : Nat) : State :=
  if Config.queueSize ≤ s.heldCount then { s with queue := { s.queue with full := true } }
  else s.acceptJob r b row cls .count count

/-- A promotion request (R11, R63): acts on the listed NORMAL job of (r, b, row), if there is one. -/
def State.promote (s : State) (r : Rank) (b : Bank) (row : Nat) : State :=
  match splitFirst (fun j => j.names r b row && !j.urgent) s.queue.list with
  | some (before, j, behind) => (s.setList (insertUrgent { j with cls := .urgent } (before ++ behind))).restage
  | none => s

/-- Threshold evaluation of the entry of (r, b, row), which is also hold evaluation (R10, R11, R12, R14). -/
def State.evaluate (s : State) (r : Rank) (b : Bank) (row : Nat) : State :=
  match (s.context r b).find row with
  | none => s
  | some e =>
    if e.mark then
      if s.urgentLevel r ≤ e.count then s.promote r b row else s
    else if s.serviceLevel r ≤ e.count then
      s.enqueueAttempt r b row (if s.urgentLevel r ≤ e.count then .urgent else .normal) e.count
    else s

/-- A counted activation of `row` in bank context (r, b), when TRACK(r) is ON (R4 to R9). -/
def State.countActivation (s : State) (r : Rank) (b : Bank) (row : Nat) : State :=
  if (s.params r).track then
    (s.modContext r b (BankContext.activate (s.ceiling r) row)).evaluate r b row
  else s

/-- The jobs of rank `r` leave the list, counted by `tally` once per job (R71, R72). -/
def State.dropJobs (s : State) (r : Rank) (tally : Stats → BitVec 32 → Stats) : State :=
  let gone := s.queue.list.countP fun j => j.rank == r
  let q := { s.queue with
    list := s.queue.list.filter fun j => j.rank != r
    stats := tally s.queue.stats (BitVec.ofNat 32 gone) }
  ({ s with queue := q }).settleFull

/-- DISCARDED raised by `n` (R72). -/
def Stats.addDiscarded (st : Stats) (n : BitVec 32) : Stats := { st with discarded := st.discarded + n }

/-- COVERED raised by `n` (R71). -/
def Stats.addCovered (st : Stats) (n : BitVec 32) : Stats := { st with covered := st.covered + n }

/-- The clearing of a rank by CLEAR RANK or a TRACK write: tables cleared, listed jobs DISCARDED, staged slot re-evaluated
(R159 b, R162 b). -/
def State.discardRank (s : State) (r : Rank) : State :=
  ((s.clearTables r).dropJobs r Stats.addDiscarded).restage

/-! ### Takes (R69, R81, R82) -/

/-- The first job of rank `r` in list order taken out of the list as RUNNING; jobs whose list is computed empty at the take
retire EMPTY on the way. With `urgentOnly` the search ends at a job that is not URGENT (R82 b). -/
def State.takeLoop (r : Rank) (urgentOnly : Bool) : Nat → State → State × Option Job
  | 0, s => (s, none)
  | n + 1, s =>
    match splitFirst (fun j => j.rank == r) s.queue.list with
    | none => (s, none)
    | some (before, j, behind) =>
      if urgentOnly && !j.urgent then (s, none)
      else
        match j.victims with
        | some _ => (s.setList (before ++ behind), some { j with state := .running })
        | none =>
          match s.victimsFor j with
          | [] => State.takeLoop r urgentOnly n (s.retireEmpty before j behind)
          | v :: vs => (s.setList (before ++ behind), some { j with state := .running, victims := some (v :: vs) })

/-- The take for a window on rank `r` (R69). -/
def State.take (s : State) (r : Rank) (urgentOnly : Bool) : State × Option Job :=
  s.takeLoop r urgentOnly s.queue.list.length

/-! ### Rank ports (R127, R128) -/

/-- The two beats of a command at slots `k` and `k + 1`. -/
def beatPair (k : Nat) (f : FirstBeat) (b : SecondBeat) : List PortBeat :=
  [{ slot := k, word := firstWord f }, { slot := k + 1, word := secondWord b }]

/-- No beat placed on the port and not yet left takes slot `k`. -/
def RankUnit.slotFree (u : RankUnit) (k : Nat) : Bool := !(u.port.any fun p => p.slot == k)

/-- The first of two adjacent free slots at or after `k`. Each pending beat spoils at most two places, so the fuel that
`engineSlot` gives suffices. -/
def RankUnit.freePair (u : RankUnit) : Nat → Nat → Nat
  | 0, k => k
  | n + 1, k => if u.slotFree k && u.slotFree (k + 1) then k else u.freePair n (k + 1)

/-- The slot an engine command whose instant falls within slot `m` takes (R128 b). Slots up to the beat last driven are taken
(DEDUCED, safe, log 17). -/
def RankUnit.engineSlot (u : RankUnit) (m : Nat) : Nat :=
  let k := match u.portOut with
    | some p => max m (p.slot + 1)
    | none => m
  u.freePair (2 * u.port.length) k

/-- The beat belongs to a command that has left the port before slot `k`: a FIRST beat (marker 01) needs the next slot too. -/
def PortBeat.over (k : Nat) (p : PortBeat) : Bool :=
  decide (p.slot + 1 < k) || (decide (p.slot < k) && !p.word.getLsbD 18)

/-- Beats put off in their order: each takes the first slot, at or after its own and at or after `e`, behind the one before it.
The two beats of a command stay adjacent. -/
def putOff : Nat → List PortBeat → List PortBeat
  | _, [] => []
  | e, p :: rest => { p with slot := max p.slot e } :: putOff (max p.slot e + 1) rest

/-- The port when a command takes slots `k` and `k + 1`: the commands placed that would not have left before slot `k` give way,
in their order, and leave behind it. -/
def makeWay (k : Nat) (pair port : List PortBeat) : List PortBeat :=
  port.filter (PortBeat.over k) ++ pair ++ putOff (k + 2) (port.filter fun p => !p.over k)

/-- An accepted command forwarded: its two beats as received at slots n+2 and n+3, with no other beat in these slots (R127,
R128 a). In a run, the commands that give way are the engine's, after a RESTART that aborted a window: a forwarded command
accepted before slot n has left before slot n+2. That they yield, the CLOSE that RESTART drives and the OPEN of the step before
it, is the model's choice (DESIGN CHOICE, unsafe, log 22). -/
def State.forward (s : State) (n : Nat) (f : FirstBeat) (b : SecondBeat) : State :=
  let k := n + Config.forwardingDelay
  s.modRank f.rank fun u => { u with port := makeWay k (beatPair k f b) u.port }

/-- An engine command driven on the port of rank `r` at an instant within slot `m` (R128 b, R168 c). -/
def State.engineDrive (s : State) (m : Nat) (r : Rank) (op : BitVec 4) (bank : Bank) (operand : BitVec 17) : State :=
  let f := engineFirst op r bank
  s.modRank r fun u => { u with port := u.port ++ beatPair (u.engineSlot m) f (engineSecond f operand) }

/-! ### Windows (R80 to R84) -/

/-- The capacity of a window (R83). -/
def capacityOf (length stepTime : Nat) : Nat := min Config.capacityMax (length / stepTime)

/-- A window started on rank `r`: the record made and the rank in SERVICE (R80, R81, R82, R83, R143). -/
def State.startWindow (s : State) (r : Rank) (kind : WindowKind) (purpose : Purpose) (length : Nat) : State :=
  let w : Window :=
    { rank := r, kind := kind, purpose := purpose, length := length
      capacity := capacityOf length (s.params r).stepTime
      stepTime := (s.params r).stepTime, start := s.clock.time, stepsDone := 0, stepOpen := false }
  { s.modRank r (fun u => { u with state := .service }) with engine := { s.engine with window := some w } }

/-- The length of a job's victim list. -/
def Job.listed (j : Job) : Nat := (j.victims.getD []).length

/-- The number of victims a window serves: min(remaining, capacity) for a JOB window, none otherwise (R84, R87, R88). -/
def Window.steps (w : Window) : Nat :=
  match w.purpose with
  | .job j => min (j.listed - j.served) w.capacity
  | .vacant => 0
  | .repay => 0

/-- The end of the window: start plus length (R80). -/
def Window.finish (w : Window) : Nat := w.start + w.length

/-- The victim of the next step with its job, when a step is still to be made (R84). -/
def Window.nextVictim (w : Window) : Option (Job × Nat) :=
  match w.purpose with
  | .job j =>
    if w.stepsDone < w.steps then
      ((j.victims.getD [])[j.served + w.stepsDone]?).map fun v => (j, v)
    else none
  | .vacant => none
  | .repay => none

/-- The beginning of a step: the engine drives OPEN of the victim at an instant within slot `m`, the bank is OPEN, and the
opening is a counted activation (R84 a, R85, R125). -/
def State.openStep (s : State) (m : Nat) (w : Window) (j : Job) (v : Nat) : State :=
  let t := { s with engine := { s.engine with window := some { w with stepOpen := true } } }
  (((t.engineDrive m w.rank opOpen j.bank (BitVec.ofNat 17 v)).setOpen w.rank j.bank true).countActivation w.rank j.bank v)

/-- The first step of a JOB window, at the window's start (R84). -/
def State.firstStep (s : State) (m : Nat) : State :=
  match s.engine.window with
  | some w =>
    match w.nextVictim with
    | some (j, v) => s.openStep m w j v
    | none => s
  | none => s

/-! ### Refresh accounting (R104, R19) -/

/-- A tracking-window close of rank `r`: the refresh count is 0 and the rank's tables are halved (R19, R104). -/
def State.closeTracking (s : State) (r : Rank) : State :=
  s.modRank r fun u => { u with refreshCount := 0, contexts := u.contexts.map BankContext.halve }

/-- An accepted REFRESH counted; the count that reaches WINDOW_REFRESHES closes the tracking window (R104). -/
def State.countRefresh (s : State) (r : Rank) : State :=
  if (s.rank r).refreshCount + 1 = (s.params r).windowRefreshes then s.closeTracking r
  else s.modRank r fun u => { u with refreshCount := u.refreshCount + 1 }

/-! ### Refusals (R132, R134, R136, R137) -/

/-- The slot of the pulse of a report made at slot `n`: n + D, or directly after the latest scheduled slot (R134). -/
def pulseSlot (schedule : List Nat) (n distance : Nat) : Nat :=
  match schedule.getLast? with
  | some latest => if n + distance ≤ latest then latest + 1 else n + distance
  | none => n + distance

/-- A refusal report taken at slot `n`: numbered, its pulse scheduled, offered to the log (R132). -/
def State.report (s : State) (n : Nat) (x : Report) : State :=
  let u := s.refusals
  let room := decide (u.log.length < Config.logSize)
  { s with refusals := { u with
      schedule := u.schedule ++ [pulseSlot u.schedule n u.distance]
      sequence := u.sequence + 1
      log := if room then u.log ++ [{ sequence := u.sequence, report := x }] else u.log
      overflow := if room then u.overflow else min Config.overflowMax (u.overflow + 1) } }

/-! ### Management responses (R154, R155) -/

/-- A response placed in the buffer with the read position at its start; no request is being received (R154 a). -/
def State.respond (s : State) (code : ResponseCode) (body : List Byte) : State :=
  { s with mgmt := { s.mgmt with request := none, response := some { code := code, body := body, position := 0 } } }

/-- A response with no body (R155). -/
def State.reply (s : State) (code : ResponseCode) : State := s.respond code []

end Sys2Proof.Machine
end

