-- ==== Sys2Proof/Machine/Link.lean ====
section
/-! DEFINITION. The upstream link: assembly (R114, R115), the acceptance checks (R119 to R122), what each accepted command does
(R123) and the meanings of the link's rows. A row that is a SECOND beat is decided by the FIRST beat that is held: when that
beat carries another opcode than the row's, the beats decide and not the row's name (DEDUCED, safe, log 4). -/

namespace Sys2Proof.Machine

open Sys2Proof

/-! ### The acceptance checks -/

/-- Check 7: the bank check (R121). -/
def State.bankCheck (s : State) (f : FirstBeat) : Option Reason :=
  if f.opcode == opOpen then
    if s.isOpen f.rank f.bank then some .bankOpen else none
  else if [opRead, opWrite].contains f.opcode then
    if s.isOpen f.rank f.bank then none else some .bankClosed
  else if [opRefresh, opSleepEnter, opServiceGrant].contains f.opcode then
    if s.anyOpen f.rank then some .bankOpen else none
  else none

/-- The row of a held OPEN completed by `b` (R118). -/
def State.rowOf (s : State) (f : FirstBeat) (b : SecondBeat) : Nat := openRowOf (s.params f.rank).rows b

/-- The engine is in WINDOW on the rank other than `r` (R119, check 6). -/
def State.otherBusy (s : State) (r : Rank) : Bool :=
  match s.engine.window with
  | some w => w.rank != r
  | none => false

/-- The first of the eight checks that fails, with its reason (R119). -/
def State.checkFailure (s : State) (f : FirstBeat) (b : SecondBeat) : Option Reason :=
  let st := (s.rank f.rank).state
  if !parityEven f b then some .parity
  else if !opcodeDefined f.opcode then some .undefined
  else if st == .asleep && f.opcode != opSleepExit then some .asleep
  else if st == .awake && f.opcode == opSleepExit then some .notAsleep
  else if st == .service then some .window
  else if f.opcode == opServiceGrant && s.otherBusy f.rank then some .engineBusy
  else
    match s.bankCheck f with
    | some reason => some reason
    | none =>
      if f.opcode == opOpen && s.rowHeld f.rank f.bank (s.rowOf f b) then some .rowHold else none

/-! ### Accepted commands; `n` is the slot of the SECOND beat -/

/-- An accepted OPEN: bank OPEN, forwarded, counted when TRACK is ON (R123, R124 a, R4). -/
def State.acceptOpen (s : State) (n : Nat) (f : FirstBeat) (b : SecondBeat) : State :=
  ((s.setOpen f.rank f.bank true).forward n f b).countActivation f.rank f.bank (s.rowOf f b)

/-- An accepted CLOSE: bank CLOSED, forwarded (R124 b). -/
def State.acceptClose (s : State) (n : Nat) (f : FirstBeat) (b : SecondBeat) : State :=
  (s.setOpen f.rank f.bank false).forward n f b

/-- An accepted CLOSE ALL: all 16 banks CLOSED, forwarded (R124 c). -/
def State.acceptCloseAll (s : State) (n : Nat) (f : FirstBeat) (b : SecondBeat) : State :=
  (s.modRank f.rank fun u => { u with bankOpen := Vector.replicate 16 false }).forward n f b

/-- An accepted READ or WRITE: forwarded; bank CLOSED with close-after (R118, R124 d). -/
def State.acceptAccess (s : State) (n : Nat) (f : FirstBeat) (b : SecondBeat) : State :=
  (if closeAfter b then s.setOpen f.rank f.bank false else s).forward n f b

/-- An accepted MODE SET or MODE GET: forwarded (R117). -/
def State.acceptMode (s : State) (n : Nat) (f : FirstBeat) (b : SecondBeat) : State := s.forward n f b

/-- The first job of rank `r` in list order is URGENT (R102 b). -/
def State.firstUrgent (s : State) (r : Rank) : Bool :=
  match s.queue.list.find? fun j => j.rank == r with
  | some j => j.urgent
  | none => false

/-- The three conditions of a conversion: the engine is IDLE, the first job of rank r is URGENT, and debt(r) is below
DEBT_LIMIT(r) (R102). -/
def State.mayConvert (s : State) (r : Rank) : Bool :=
  s.idle && s.firstUrgent r && decide ((s.rank r).debt < (s.params r).debtLimit)

/-- A converted window started on rank `r` with job `j`: window, re-evaluation, debt and CONVERTED (R82 a, R103 a). -/
def State.convert (s : State) (r : Rank) (j : Job) : State :=
  let t := (s.startWindow r .converted (.job j) (s.params r).refreshLen).restage
  let q := { t.queue with stats := { t.queue.stats with converted := t.queue.stats.converted + 1 } }
  ({ t with queue := q }).modRank r fun u => { u with debt := u.debt + 1 }

/-- An accepted REFRESH: the conversion decision (R102, R103), then the count (R104), then the first step of a converted window
(R84 a). When every URGENT job tried retires EMPTY no window starts and the REFRESH is forwarded (R82 b, R103 b). -/
def State.acceptRefresh (s : State) (n : Nat) (f : FirstBeat) (b : SecondBeat) : State :=
  if s.mayConvert f.rank then
    match s.take f.rank true with
    | (t, some j) => ((t.convert f.rank j).countRefresh f.rank).firstStep n
    | (t, none) => (t.restage.forward n f b).countRefresh f.rank
  else (s.forward n f b).countRefresh f.rank

/-- An accepted SLEEP ENTER: the rank ASLEEP, its coverage timer started, the slot re-evaluated, forwarded (R146, R148). -/
def State.acceptSleepEnter (s : State) (n : Nat) (f : FirstBeat) (b : SecondBeat) : State :=
  ((s.modRank f.rank fun u => { u with state := .asleep, coverage := .running 0 }).restage).forward n f b

/-- The exit is covered: the residency count is above COVER_TIME (R149). -/
def RankUnit.covered (u : RankUnit) : Bool :=
  match u.coverage with
  | .running k => decide (u.params.coverTime < k)
  | .stopped => false

/-- What a covered exit clears: jobs COVERED, tables, debt, refresh count (R149, R71, R21, R106, R112). -/
def State.cover (s : State) (r : Rank) : State :=
  ((s.dropJobs r Stats.addCovered).clearTables r).modRank r fun u => { u with debt := 0, refreshCount := 0 }

/-- An accepted SLEEP EXIT: the rank AWAKE, the exit decided covered or short, the timer STOPPED, the slot re-evaluated,
forwarded (R149). -/
def State.acceptSleepExit (s : State) (n : Nat) (f : FirstBeat) (b : SecondBeat) : State :=
  let r := f.rank
  let t := s.modRank r fun u => { u with state := .awake, coverage := .stopped }
  ((if (s.rank r).covered then t.cover r else t).restage).forward n f b

/-- The purpose of a granted window that finds no job (R81, step 4). -/
def State.emptyPurpose (s : State) (r : Rank) : Purpose :=
  if 0 < (s.rank r).debt ∧ (s.params r).refreshLen ≤ (s.params r).grantLen then .repay else .vacant

/-- An accepted SERVICE GRANT: consumed; a granted window of purpose JOB, REPAY or VACANT starts (R81). A JOB window makes its
first step (R84), a REPAY window drives its REFRESH (R87). -/
def State.acceptGrant (s : State) (n : Nat) (f : FirstBeat) : State :=
  let r := f.rank
  match s.take r false with
  | (t, some j) => ((t.startWindow r .granted (.job j) (s.params r).grantLen).restage).firstStep n
  | (t, none) =>
    match s.emptyPurpose r with
    | .repay => ((t.startWindow r .granted .repay (s.params r).grantLen).restage).engineDrive n r opRefresh 0 0
    | _ => (t.startWindow r .granted .vacant (s.params r).grantLen).restage

/-! ### A SECOND beat -/

/-- A complete command refused for `reason` at slot `n`: reported, and for ROW HOLD evaluated (R119, R122, R132, R14). -/
def State.refuse (s : State) (n : Nat) (reason : Reason) (f : FirstBeat) (b : SecondBeat) : State :=
  let t := s.report n (commandReport reason f b)
  if reason = .rowHold then t.evaluate f.rank f.bank (s.rowOf f b) else t

/-- A complete command decided at slot `n`: refused for the first check that fails, otherwise `accepted` (R119, R123). -/
def State.decideWith (s : State) (n : Nat) (f : FirstBeat) (b : SecondBeat) (accepted : State → State) : State :=
  match s.checkFailure f b with
  | some reason => s.refuse n reason f b
  | none => accepted s

/-- What the accepted command of a held FIRST beat does, by its opcode (R123). An undefined opcode never passes check 2. -/
def State.acceptHeld (s : State) (n : Nat) (f : FirstBeat) (b : SecondBeat) : State :=
  if f.opcode == opOpen then s.acceptOpen n f b
  else if f.opcode == opClose then s.acceptClose n f b
  else if f.opcode == opCloseAll then s.acceptCloseAll n f b
  else if f.opcode == opRead then s.acceptAccess n f b
  else if f.opcode == opWrite then s.acceptAccess n f b
  else if f.opcode == opRefresh then s.acceptRefresh n f b
  else if f.opcode == opSleepEnter then s.acceptSleepEnter n f b
  else if f.opcode == opSleepExit then s.acceptSleepExit n f b
  else if f.opcode == opModeSet then s.acceptMode n f b
  else if f.opcode == opModeGet then s.acceptMode n f b
  else if f.opcode == opServiceGrant then s.acceptGrant n f
  else s

/-- The beat of the slot in progress has been taken: the next slot is in progress (R113). -/
def State.passSlot (s : State) : State := { s with clock := { s.clock with slot := s.clock.slot + 1 } }

/-- The held beat replaced (R114). -/
def State.setHeld (s : State) (f : Option FirstBeat) : State := { s with link := { s.link with held := f } }

/-- A SECOND beat taken at the slot in progress (R114): ignored while RESET/ is low (R116), a framing fault in NONE (R115 a),
otherwise it completes the held beat. `own` says whether the held opcode is the row's and `accepted` is what the row's command
does once accepted at its slot. -/
def State.takeSecond (s : State) (b : SecondBeat) (own : BitVec 4 → Bool)
    (accepted : State → Nat → FirstBeat → State) : State :=
  let n := s.clock.slot
  if !s.link.resetHigh then s.passSlot
  else
    match s.link.held with
    | none => (s.report n loneReport).passSlot
    | some f =>
      let t := s.setHeld none
      if own f.opcode then (t.decideWith n f b fun u => accepted u n f).passSlot
      else (t.decideWith n f b fun u => u.acceptHeld n f b).passSlot

/-- A beat that is neither FIRST nor SECOND in HOLDING FIRST, or no beat of a command in NONE: an IDLE beat (R114, R115 c). -/
def State.takeIdle (s : State) : State :=
  let n := s.clock.slot
  if !s.link.resetHigh then s.passSlot
  else
    match s.link.held with
    | none => s.passSlot
    | some f => ((s.setHeld none).report n (heldReport f)).passSlot

/-- An INVALID beat (R115 d, e). -/
def State.takeInvalid (s : State) : State :=
  let n := s.clock.slot
  if !s.link.resetHigh then s.passSlot
  else
    match s.link.held with
    | none => (s.report n loneReport).passSlot
    | some f => ((s.setHeld none).report n (heldReport f)).passSlot

/-! ### The rows -/

/-- FIRST_BEAT (R114, R115 b): held; a beat already held is refused FRAMING. -/
def execFirstBeat (f : FirstBeat) (s : State) : Answer :=
  let n := s.clock.slot
  .next <|
    if !s.link.resetHigh then s.passSlot
    else
      match s.link.held with
      | none => (s.setHeld (some f)).passSlot
      | some g => ((s.setHeld (some f)).report n (heldReport g)).passSlot

/-- FRAMING_FAULT (R115 a, c, d, e). -/
def execFramingFault (x : FaultBeat) (s : State) : Answer :=
  .next <|
    match x with
    | .idle => s.takeIdle
    | .second b => s.takeSecond b (fun _ => true) fun u n f => u.acceptHeld n f b
    | .invalid => s.takeInvalid

/-- OPEN (R4, R118, R122, R124). -/
def execOpenRow (b : SecondBeat) (s : State) : Answer :=
  .next (s.takeSecond b (· == opOpen) fun t n f => t.acceptOpen n f b)

/-- CLOSE (R121, R124). -/
def execCloseBank (b : SecondBeat) (s : State) : Answer :=
  .next (s.takeSecond b (· == opClose) fun t n f => t.acceptClose n f b)

/-- CLOSE_ALL (R124). -/
def execCloseAll (b : SecondBeat) (s : State) : Answer :=
  .next (s.takeSecond b (· == opCloseAll) fun t n f => t.acceptCloseAll n f b)

/-- READ (R118, R121, R124). -/
def execRead (b : SecondBeat) (s : State) : Answer :=
  .next (s.takeSecond b (· == opRead) fun t n f => t.acceptAccess n f b)

/-- WRITE (R118, R121, R124). -/
def execWrite (b : SecondBeat) (s : State) : Answer :=
  .next (s.takeSecond b (· == opWrite) fun t n f => t.acceptAccess n f b)

/-- REFRESH (R101 to R104). -/
def execRefresh (b : SecondBeat) (s : State) : Answer :=
  .next (s.takeSecond b (· == opRefresh) fun t n f => t.acceptRefresh n f b)

/-- SLEEP_ENTER (R146). -/
def execSleepEnter (b : SecondBeat) (s : State) : Answer :=
  .next (s.takeSecond b (· == opSleepEnter) fun t n f => t.acceptSleepEnter n f b)

/-- SLEEP_EXIT (R149). -/
def execSleepExit (b : SecondBeat) (s : State) : Answer :=
  .next (s.takeSecond b (· == opSleepExit) fun t n f => t.acceptSleepExit n f b)

/-- MODE_SET (R117). -/
def execModeSet (b : SecondBeat) (s : State) : Answer :=
  .next (s.takeSecond b (· == opModeSet) fun t n f => t.acceptMode n f b)

/-- MODE_GET (R117). -/
def execModeGet (b : SecondBeat) (s : State) : Answer :=
  .next (s.takeSecond b (· == opModeGet) fun t n f => t.acceptMode n f b)

/-- SERVICE_GRANT (R81). -/
def execServiceGrant (b : SecondBeat) (s : State) : Answer :=
  .next (s.takeSecond b (· == opServiceGrant) fun t n f => t.acceptGrant n f)

/-- UNDEFINED_OPCODE (R117, R119): such a command is never accepted, check 2 refuses it. -/
def execUndefinedOpcode (b : SecondBeat) (s : State) : Answer :=
  .next (s.takeSecond b (fun op => !opcodeDefined op) fun t _ _ => t)

end Sys2Proof.Machine
end

