-- ==== Sys2Proof/Machine/Bodies.lean ====
section
/-! DEFINITION. The bytes the part answers on the management port: encodings (spec/12, section 12.2) and response bodies
(R170). -/

namespace Sys2Proof.Machine

open Sys2Proof

/-! ### Bytes -/

/-- One byte holding `n`. -/
def byte (n : Nat) : Byte := BitVec.ofNat 8 n

/-- Two bytes, most significant first (spec/12, section 12.2). -/
def bytes2 (n : Nat) : List Byte := [byte (n / 256), byte n]

/-- Three bytes, most significant first. -/
def bytes3 (n : Nat) : List Byte := [byte (n / 65536), byte (n / 256), byte n]

/-- Four bytes, most significant first. -/
def bytes4 (n : Nat) : List Byte := [byte (n / 16777216), byte (n / 65536), byte (n / 256), byte n]

/-- A flag at bit `i` of a byte. -/
def flagBit (i : Nat) (v : Bool) : Nat := if v then 2 ^ i else 0

/-- The encoding of a response code (spec/12, section 12.2). -/
def ResponseCode.byte : ResponseCode → Byte
  | .ok => 0x00#8
  | .busy => 0x01#8
  | .range => 0x02#8
  | .state => 0x03#8
  | .exists_ => 0x04#8
  | .queueFull => 0x05#8
  | .tableFull => 0x06#8
  | .empty => 0x07#8
  | .unknown => 0x08#8

/-- What a read returns when there is nothing more to return: FFH (R155). -/
def fillByte : Byte := 0xFF#8

/-- The bytes of a response from its read position on: the code, then the body (R155). -/
def Response.rest (x : Response) : List Byte := (x.code.byte :: x.body).drop x.position

/-- The `n` bytes a read transaction returns (R155). -/
def readBytes (x : Option Response) (n : Nat) : List Byte :=
  let have_ := match x with
    | some x => x.rest
    | none => []
  have_.take n ++ List.replicate (n - have_.length) fillByte

/-! ### Parameters (R158) -/

/-- The value of a per-rank parameter by its identifier, 00H to 0DH (spec/12, section 12.2). -/
def RankParams.value (p : RankParams) (identifier : Nat) : Option Nat :=
  match identifier with
  | 0x00 => some (if p.track then 1 else 0)
  | 0x01 => some p.rows
  | 0x02 => some p.section_
  | 0x03 => some p.mask
  | 0x04 => some p.radius
  | 0x05 => some p.tService
  | 0x06 => some p.tUrgent
  | 0x07 => some p.tCeiling
  | 0x08 => some p.windowRefreshes
  | 0x09 => some p.debtLimit
  | 0x0A => some p.grantLen
  | 0x0B => some p.refreshLen
  | 0x0C => some p.stepTime
  | 0x0D => some p.coverTime
  | _ => none

/-- The value of a device parameter by its identifier, 0EH and 0FH. -/
def State.deviceValue (s : State) (identifier : Nat) : Option Nat :=
  match identifier with
  | 0x0E => some s.bands.stalePeriod
  | 0x0F => some s.refusals.distance
  | _ => none

/-- The body of READ PARAMETER (R158, R170). -/
def parameterBody (identifier rank : Byte) (value : Nat) : List Byte :=
  identifier :: rank :: bytes3 value

/-! ### Tables, queue, repairs, statistics (R170) -/

/-- An entry of a table readout: row, count, flags with inherited, mark and held (R24, R170). -/
def entryBytes (ceiling : Nat) (e : Entry) : List Byte :=
  bytes3 e.row ++ bytes2 e.count ++
    [byte (flagBit 0 e.inherited + flagBit 1 e.mark + flagBit 2 (e.held ceiling))]

/-- The body of READ TABLE (R24, R170). -/
def tableBody (ceiling : Nat) (c : BankContext) : List Byte :=
  bytes2 c.floor ++ bytes2 c.untracked ++ [byte (flagBit 0 c.saturated), byte c.entries.length] ++
    c.entries.flatMap (entryBytes ceiling)

/-- Rank in bit (4), bank in bits (3-0) (R170). -/
def rankBankByte (r : Rank) (b : Bank) : Byte := byte (16 * r.val + b.val)

/-- The two state bits of a job (R170). -/
def JobState.bits : JobState → Nat
  | .waiting => 0
  | .staged => 1
  | .running => 2

/-- The four victim places of a job record (R170 c). -/
def victimPlaces (victims : List Nat) : List Byte :=
  ((victims ++ [0, 0, 0, 0]).take 4).flatMap bytes3

/-- A job record of 23 bytes (R76, R170). -/
def jobBytes (j : Job) : List Byte :=
  [byte j.number.toNat, rankBankByte j.rank j.bank] ++ bytes3 j.row ++
    [byte (flagBit 0 j.urgent + flagBit 1 (j.origin == .injected) + 4 * j.state.bits + flagBit 4 j.victims.isSome)] ++
    bytes2 j.enqueued ++ [byte j.listed, byte j.served, byte j.partials] ++ victimPlaces (j.victims.getD [])

/-- The body of READ QUEUE (R76, R170). -/
def State.queueBody (s : State) : List Byte :=
  byte s.queue.list.length :: s.queue.list.flatMap jobBytes ++
    byte (flagBit 0 s.active.isSome) :: s.active.toList.flatMap jobBytes

/-- The bank byte of a repair record (R170). -/
def RepairBank.byte : RepairBank → Byte
  | .one b => Machine.byte b.val
  | .all => 0x10#8

/-- A repair record of 5 bytes (R170). -/
def repairBytes (x : RepairRecord) : List Byte := x.bank.byte :: bytes3 x.row ++ [byte x.spare]

/-- The body of READ REPAIR (R46, R170). -/
def repairBody (l : List RepairRecord) : List Byte := byte l.length :: l.flatMap repairBytes

/-- The body of READ STATISTICS: ENQUEUED, DONE, EMPTY, COVERED, DISCARDED, PARTIAL, CONVERTED, REPAID, VACANT (R75, R170). -/
def statsBody (st : Stats) : List Byte :=
  [st.enqueued, st.done, st.empty, st.covered, st.discarded, st.partials, st.converted, st.repaid, st.vacant].flatMap
    fun x => bytes4 x.toNat

/-! ### Refusal log (R138, R170) -/

/-- The encoding of a reason (R170). -/
def Reason.bits : Reason → Nat
  | .parity => 0
  | .framing => 1
  | .undefined => 2
  | .asleep => 3
  | .notAsleep => 4
  | .window => 5
  | .engineBusy => 6
  | .bankOpen => 7
  | .bankClosed => 8
  | .rowHold => 9

/-- Opcode in (7-4), rank in (0); 0 when absent (R170 a). -/
def sourceByte : Option (BitVec 4 × Rank) → Byte
  | some (op, r) => byte (16 * op.toNat + r.val)
  | none => 0

/-- A refusal record of 9 bytes (R170). -/
def logBytes (x : LogRecord) : List Byte :=
  bytes2 x.sequence.toNat ++
    [byte x.report.reason.bits,
     byte (flagBit 0 x.report.source.isSome + flagBit 1 x.report.bank.isSome + flagBit 2 x.report.operand.isSome),
     sourceByte x.report.source,
     byte ((x.report.bank.map (·.val)).getD 0)] ++
    bytes3 ((x.report.operand.map (·.toNat)).getD 0)

/-- The head of the body of TAKE REFUSAL: records left, overflow counter, next sequence number (R138, R170). -/
def takeHead (left : Nat) (u : Refusals) : List Byte :=
  [byte left, byte u.overflow] ++ bytes2 u.sequence.toNat

/-! ### The status record (R164, R170) -/

/-- The purpose bits of the engine byte (R170). -/
def Purpose.bits : Purpose → Nat
  | .job _ => 0
  | .vacant => 1
  | .repay => 2

/-- Byte 0: the engine state and the window's rank, kind and purpose (R98, R170). -/
def engineByte : Option Window → Byte
  | some w => byte (1 + 2 * w.rank.val + flagBit 2 (w.kind == .converted) + 8 * w.purpose.bits)
  | none => 0

/-- The two bits of a rank state (R170). -/
def RankState.bits : RankState → Nat
  | .resetHold => 0
  | .awake => 1
  | .service => 2
  | .asleep => 3

/-- The staged job summary: presence, number, rank and bank, row, and class, victims listed and served; all 0 when the slot is
empty (R77, R170). The presence byte is 01H (DEDUCED, unsafe, log 16). -/
def stagedBytes : Option Job → List Byte
  | some j =>
    [byte 1, byte j.number.toNat, rankBankByte j.rank j.bank] ++ bytes3 j.row ++
      [byte (flagBit 7 j.urgent + 16 * j.listed + j.served)]
  | none => List.replicate 7 0

/-- The kind bits of an outcome (R170). -/
def OutcomeKind.bits : OutcomeKind → Nat
  | .done => 0
  | .partialEnd => 1
  | .empty => 2
  | .vacant => 3
  | .repaid => 4
  | .aborted => 5

/-- An outcome record of 4 bytes; all 0 when the place is empty (R90, R170). -/
def outcomeBytes : Option Outcome → List Byte
  | some o =>
    [byte (128 + o.kind.bits),
     byte (flagBit 0 o.windowKind.isSome + flagBit 1 (o.windowKind == some .converted) + flagBit 2 o.job.isSome + 16 * o.rank.val),
     byte ((o.job.map (·.toNat)).getD 0),
     byte (16 * o.served + o.listed)]
  | none => List.replicate 4 0

/-- Byte 2: the six flags (R164, R170). -/
def State.flagsByte (s : State) : Byte :=
  byte (flagBit 0 s.bands.stale + flagBit 1 (!s.refusals.log.isEmpty) + flagBit 2 (decide (0 < s.refusals.overflow)) +
    flagBit 3 s.anySaturated + flagBit 4 s.anyHeld + flagBit 5 s.queue.full)

/-- The status record of 22 bytes (R164, R170). -/
def State.statusBody (s : State) : List Byte :=
  [engineByte s.engine.window,
   byte ((s.rank 0).state.bits + 4 * (s.rank 1).state.bits),
   s.flagsByte,
   byte (s.bands.band.val + 16 * s.effectiveBand.val),
   byte ((s.rank 0).debt + 16 * (s.rank 1).debt),
   byte s.queue.list.length,
   byte (s.queue.list.countP Job.urgent)] ++
  stagedBytes s.staged ++ outcomeBytes s.engine.newest ++ outcomeBytes s.engine.previous

end Sys2Proof.Machine
end

