-- ==== Sys2Proof/Machine/Timers.lean ====
section
/-! DEFINITION. The tracking-window close and the millisecond timers (R19, R30, R31, R148). -/

namespace Sys2Proof.Machine

open Sys2Proof

/-- TRACKING_WINDOW_CLOSE (R19, R104): the close of rank `r` as signalled to the tables. A REFRESH whose count reaches
WINDOW_REFRESHES makes the same close within its own step (DEDUCED, unsafe, log 9). -/
def execTrackingWindowClose (r : Rank) (s : State) : Answer := .next (s.closeTracking r)

/-- The staleness timer started with period `p`: RUNNING from zero, STOPPED for 0 (R30). -/
def startStale (p : Nat) : StaleTimer := if p = 0 then .stopped else .running p 0

/-- The timer is RUNNING and has met as many 1 ms boundaries as its period (R30). -/
def StaleTimer.due : StaleTimer → Bool
  | .stopped => false
  | .running period measured => decide (period ≤ measured)

/-- STALENESS_EXPIRY (R30, R31): the stale flag set, the timer STOPPED. An expiry that is not due does not happen (R33;
DESIGN CHOICE, safe, log 8). -/
def execStalenessExpiry (s : State) : Answer :=
  .next <|
    if s.bands.timer.due then { s with bands := { s.bands with stale := true, timer := .stopped } } else s

/-- A coverage timer at a 1 ms boundary (R148). -/
def CoverageTimer.tick : CoverageTimer → CoverageTimer
  | .stopped => .stopped
  | .running k => .running (min Config.residencyMax (k + 1))

/-- The staleness timer at a 1 ms boundary (R30). A timer that has met its period stays there, due and not expired, over any
further boundaries until STALENESS_EXPIRY comes (DESIGN CHOICE, safe, log 23). -/
def StaleTimer.tick : StaleTimer → StaleTimer
  | .stopped => .stopped
  | .running period measured => .running period (min period (measured + 1))

/-- COVERAGE_TICK (R148): the 1 ms boundary of the internal time base. It raises the residency count of each running coverage
timer and is a boundary for the staleness timer too (DEDUCED, unsafe, log 7). -/
def execCoverageTick (s : State) : Answer :=
  .next { s with
    ranks := s.ranks.map fun u => { u with coverage := u.coverage.tick }
    bands := { s.bands with timer := s.bands.timer.tick } }

end Sys2Proof.Machine
end

