-- ==== Sys2Proof/Machine/Parameters.lean ====
section
/-! DEFINITION. READ PARAMETER and the writes of the sixteen parameters, each decided by its own rule (R158 and the rules it
names). -/

namespace Sys2Proof.Machine

open Sys2Proof

/-- The parameters of rank `r` replaced. -/
def State.setParams (s : State) (r : Rank) (p : RankParams) : State := s.modRank r fun u => { u with params := p }

/-- A per-rank write: the rank byte is checked first (R157), then `decide` answers with the state the write leaves and its
response code (R158). -/
def State.writeRank (s : State) (rank : Byte) (decideWrite : Rank → State × ResponseCode) : State :=
  match rankOf rank with
  | none => s.reply .range
  | some r => (decideWrite r).1.reply (decideWrite r).2

/-- A write decided by one condition: refused with `code`, or stored with OK. -/
def State.refusedIf (s : State) (bad : Bool) (code : ResponseCode) (otherwise : State × ResponseCode) : State × ResponseCode :=
  if bad then (s, code) else otherwise

/-- READ_PARAMETER (R157, R158): RANGE for an unknown identifier, or for a rank above 1 with a per-rank parameter. -/
def execReadParameter (identifier rank : Byte) (s : State) : Answer :=
  .next <|
    match s.deviceValue identifier.toNat with
    | some v => s.respond .ok (parameterBody identifier rank v)
    | none =>
      match rankOf rank with
      | none => s.reply .range
      | some r =>
        match (s.params r).value identifier.toNat with
        | some v => s.respond .ok (parameterBody identifier rank v)
        | none => s.reply .range

/-- TRACK_WRITE (R159, R169): RANGE, then BUSY during a window on the rank; otherwise TRACK is written, the tables cleared, the
jobs DISCARDED and the slot re-evaluated, whatever the old value. -/
def execTrackWrite (rank : Byte) (value : BitVec 24) (s : State) : Answer :=
  .next <| s.writeRank rank fun r =>
    s.refusedIf (decide (1 < value.toNat)) .range <|
    s.refusedIf (s.windowOn r) .busy <|
      ((s.setParams r { s.params r with track := value.toNat == 1 }).discardRank r, .ok)

/-- ROWS_WRITE (R39): STATE with TRACK ON; RANGE for a value not of the three, not above MASK, or not above a repaired row. -/
def execRowsWrite (rank : Byte) (value : BitVec 24) (s : State) : Answer :=
  .next <| s.writeRank rank fun r =>
    let v := value.toNat
    s.refusedIf (s.params r).track .state <|
    s.refusedIf (!([32768, 65536, 131072].contains v)) .range <|
    s.refusedIf (decide (v ≤ (s.params r).mask) || (s.rank r).repairs.any fun x => decide (v ≤ x.row)) .range <|
      (s.setParams r { s.params r with rows := v }, .ok)

/-- SECTION_WRITE (R39). -/
def execSectionWrite (rank : Byte) (value : BitVec 24) (s : State) : Answer :=
  .next <| s.writeRank rank fun r =>
    s.refusedIf (s.params r).track .state <|
    s.refusedIf (!([512, 1024, 2048].contains value.toNat)) .range <|
      (s.setParams r { s.params r with section_ := value.toNat }, .ok)

/-- MASK_WRITE (R39). -/
def execMaskWrite (rank : Byte) (value : BitVec 24) (s : State) : Answer :=
  .next <| s.writeRank rank fun r =>
    s.refusedIf (s.params r).track .state <|
    s.refusedIf (decide ((s.params r).rows ≤ value.toNat)) .range <|
      (s.setParams r { s.params r with mask := value.toNat }, .ok)

/-- RADIUS_WRITE (R39). -/
def execRadiusWrite (rank : Byte) (value : BitVec 24) (s : State) : Answer :=
  .next <| s.writeRank rank fun r =>
    s.refusedIf (s.params r).track .state <|
    s.refusedIf (!([1, 2].contains value.toNat)) .range <|
      (s.setParams r { s.params r with radius := value.toNat }, .ok)

/-- The value lies outside `lo` to `hi`. -/
def outside (lo hi v : Nat) : Bool := decide (v < lo) || decide (hi < v)

/-- T_SERVICE_WRITE (R25, R26). -/
def execTServiceWrite (rank : Byte) (value : BitVec 24) (s : State) : Answer :=
  .next <| s.writeRank rank fun r =>
    let v := value.toNat
    s.refusedIf (outside 64 2048 v) .range <|
    s.refusedIf (decide ((s.params r).tUrgent ≤ v)) .range <|
      (s.setParams r { s.params r with tService := v }, .ok)

/-- T_URGENT_WRITE (R25, R26). -/
def execTUrgentWrite (rank : Byte) (value : BitVec 24) (s : State) : Answer :=
  .next <| s.writeRank rank fun r =>
    let v := value.toNat
    s.refusedIf (outside 65 3072 v) .range <|
    s.refusedIf (decide (v ≤ (s.params r).tService) || decide ((s.params r).tCeiling ≤ v)) .range <|
      (s.setParams r { s.params r with tUrgent := v }, .ok)

/-- T_CEILING_WRITE (R25, R26). -/
def execTCeilingWrite (rank : Byte) (value : BitVec 24) (s : State) : Answer :=
  .next <| s.writeRank rank fun r =>
    let v := value.toNat
    s.refusedIf (outside 66 4095 v) .range <|
    s.refusedIf (decide (v ≤ (s.params r).tUrgent)) .range <|
      (s.setParams r { s.params r with tCeiling := v }, .ok)

/-- WINDOW_REFRESHES_WRITE (R105): stored, and the refresh count set to 0. -/
def execWindowRefreshesWrite (rank : Byte) (value : BitVec 24) (s : State) : Answer :=
  .next <| s.writeRank rank fun r =>
    let v := value.toNat
    s.refusedIf (!([1024, 2048, 4096, 8192, 16384].contains v)) .range <|
      ((s.setParams r { s.params r with windowRefreshes := v }).modRank r fun u => { u with refreshCount := 0 }, .ok)

/-- DEBT_LIMIT_WRITE (R109). -/
def execDebtLimitWrite (rank : Byte) (value : BitVec 24) (s : State) : Answer :=
  .next <| s.writeRank rank fun r =>
    let v := value.toNat
    s.refusedIf (decide (4 < v)) .range <|
    s.refusedIf (decide (v < (s.rank r).debt)) .state <|
      (s.setParams r { s.params r with debtLimit := v }, .ok)

/-- GRANT_LEN_WRITE (R160 a). -/
def execGrantLenWrite (rank : Byte) (value : BitVec 24) (s : State) : Answer :=
  .next <| s.writeRank rank fun r =>
    let v := value.toNat
    s.refusedIf (outside 10 1000 v || decide (v < (s.params r).stepTime)) .range <|
      (s.setParams r { s.params r with grantLen := v }, .ok)

/-- REFRESH_LEN_WRITE (R160 a). -/
def execRefreshLenWrite (rank : Byte) (value : BitVec 24) (s : State) : Answer :=
  .next <| s.writeRank rank fun r =>
    let v := value.toNat
    s.refusedIf (outside 10 1000 v || decide (v < (s.params r).stepTime)) .range <|
      (s.setParams r { s.params r with refreshLen := v }, .ok)

/-- STEP_TIME_WRITE (R160 b). -/
def execStepTimeWrite (rank : Byte) (value : BitVec 24) (s : State) : Answer :=
  .next <| s.writeRank rank fun r =>
    let v := value.toNat
    s.refusedIf (outside 4 100 v || decide ((s.params r).grantLen < v) || decide ((s.params r).refreshLen < v)) .range <|
      (s.setParams r { s.params r with stepTime := v }, .ok)

/-- COVER_TIME_WRITE (R150). -/
def execCoverTimeWrite (rank : Byte) (value : BitVec 24) (s : State) : Answer :=
  .next <| s.writeRank rank fun r =>
    s.refusedIf (outside 1 255 value.toNat) .range <|
      (s.setParams r { s.params r with coverTime := value.toNat }, .ok)

/-- STALE_PERIOD_WRITE (R32): stored, and the timer started with it; the rank byte is not looked at (R158). -/
def execStalePeriodWrite (_rank : Byte) (value : BitVec 24) (s : State) : Answer :=
  let v := value.toNat
  .next <|
    if 255 < v then s.reply .range
    else ({ s with bands := { s.bands with stalePeriod := v, timer := startStale v } }).reply .ok

/-- REFUSAL_DISTANCE_WRITE (R135); the rank byte is not looked at (R158). -/
def execRefusalDistanceWrite (_rank : Byte) (value : BitVec 24) (s : State) : Answer :=
  let v := value.toNat
  .next <|
    if outside 2 15 v then s.reply .range
    else ({ s with refusals := { s.refusals with distance := v } }).reply .ok

/-- WRITE_PARAMETER_UNKNOWN_IDENTIFIER (R158): RANGE, nothing changed. -/
def execWriteParameterUnknownIdentifier (_identifier _rank : Byte) (_value : BitVec 24) (s : State) : Answer :=
  .next (s.reply .range)

end Sys2Proof.Machine
end

