-- ==== Sys2Proof/Machine/Management.lean ====
section
/-! DEFINITION. The other management requests (R156 to R165) and transactions (R154, R155). -/

namespace Sys2Proof.Machine

open Sys2Proof

/-! ### Readouts -/

/-- STATUS (R164). -/
def execStatus (s : State) : Answer := .next (s.respond .ok s.statusBody)

/-- READ_TABLE (R24, R157). -/
def execReadTable (rank bank : Byte) (s : State) : Answer :=
  .next <|
    match rankOf rank, bankOf bank with
    | some r, some b => s.respond .ok (tableBody (s.ceiling r) (s.context r b))
    | _, _ => s.reply .range

/-- READ_QUEUE (R76). -/
def execReadQueue (s : State) : Answer := .next (s.respond .ok s.queueBody)

/-- READ_REPAIR (R46, R157). -/
def execReadRepair (rank : Byte) (s : State) : Answer :=
  .next <|
    match rankOf rank with
    | some r => s.respond .ok (repairBody (s.rank r).repairs)
    | none => s.reply .range

/-- READ_STATISTICS (R75). -/
def execReadStatistics (s : State) : Answer := .next (s.respond .ok (statsBody s.queue.stats))

/-- TAKE_REFUSAL (R138): the oldest record removed and returned, or EMPTY with its body. -/
def execTakeRefusal (s : State) : Answer :=
  .next <|
    match s.refusals.log with
    | [] => s.respond .empty (takeHead 0 s.refusals)
    | x :: rest =>
      ({ s with refusals := { s.refusals with log := rest } }).respond .ok (takeHead rest.length s.refusals ++ logBytes x)

/-! ### Requests that change state -/

/-- SET_BAND (R29): band written, stale flag cleared, timer restarted. -/
def execSetBand (band : Byte) (s : State) : Answer :=
  .next <|
    if h : band.toNat < 4 then
      ({ s with bands := { s.bands with
          band := ⟨band.toNat, h⟩, stale := false, timer := startStale s.bands.stalePeriod } }).reply .ok
    else s.reply .range

/-- The table after an injection of `row`, or none when it is full with nothing to replace (R18). -/
def BankContext.inject (ceiling row : Nat) (c : BankContext) : Option BankContext :=
  if c.names row then some c
  else if c.entries.length < Config.tableSize then
    some { c with entries := c.entries ++ [{ row := row, count := 0, inherited := false, mark := false }] }
  else
    match c.evictee ceiling with
    | some e => some (c.replace e { row := row, count := e.count, inherited := true, mark := false })
    | none => none

/-- The count of the entry of `row`, 0 if there is none. -/
def BankContext.countOf (c : BankContext) (row : Nat) : Nat :=
  match c.find row with
  | some e => e.count
  | none => 0

/-- The entry of `row` is marked. -/
def BankContext.marked (c : BankContext) (row : Nat) : Bool :=
  match c.find row with
  | some e => e.mark
  | none => false

/-- The injection itself, once all checks have passed: the table updated, the job enqueued INJECTED with the entry's count,
and the answer with the job number and whether the job retired EMPTY within the event (R18, R60, R161). -/
def State.injectInto (s : State) (r : Rank) (b : Bank) (row : Nat) (cls : JobClass) (c : BankContext) : State :=
  let number := s.queue.nextNumber
  let t := (s.modContext r b fun _ => c).acceptJob r b row cls .injected (c.countOf row)
  let retired := !(t.queue.list.any fun j => j.names r b row && j.number == number)
  t.respond .ok [byte number.toNat, byte (flagBit 0 retired)]

/-- INJECT_JOB (R18, R60, R157, R161). -/
def execInjectJob (rank bank : Byte) (row : BitVec 24) (cls : Byte) (s : State) : Answer :=
  .next <|
    match rankOf rank, bankOf bank, classOf cls with
    | some r, some b, some k =>
      let R := row.toNat
      if (s.params r).rows ≤ R then s.reply .range
      else if !(s.params r).track then s.reply .state
      else if (s.context r b).marked R then s.reply .exists_
      else if Config.queueSize ≤ s.heldCount then s.reply .queueFull
      else
        match (s.context r b).inject (s.ceiling r) R with
        | none => s.reply .tableFull
        | some c => s.injectInto r b R k c
    | _, _, _ => s.reply .range

/-- CLEAR_RANK (R157, R162). -/
def execClearRank (rank : Byte) (s : State) : Answer :=
  .next <|
    match rankOf rank with
    | none => s.reply .range
    | some r => if s.windowOn r then s.reply .busy else (s.discardRank r).reply .ok

/-- WRITE_REPAIR (R44, R157). -/
def execWriteRepair (rank bank : Byte) (row : BitVec 24) (spare : Byte) (s : State) : Answer :=
  .next <|
    match rankOf rank, repairBankOf bank with
    | some r, some k =>
      let x : RepairRecord := { bank := k, row := row.toNat, spare := spare.toNat }
      let l := (s.rank r).repairs
      if Config.spareRows ≤ x.spare ∨ (s.params r).rows ≤ x.row then s.reply .range
      else if (s.params r).track then s.reply .state
      else if l.any x.clashes then s.reply .exists_
      else if Config.repairSize ≤ l.length then s.reply .tableFull
      else (s.modRank r fun u => { u with repairs := l ++ [x] }).reply .ok
    | _, _ => s.reply .range

/-- ERASE_REPAIR (R45, R157). -/
def execEraseRepair (rank bank : Byte) (row : BitVec 24) (s : State) : Answer :=
  .next <|
    match rankOf rank, repairBankOf bank with
    | some r, some k =>
      if (s.params r).rows ≤ row.toNat then s.reply .range
      else if (s.params r).track then s.reply .state
      else
        match splitFirst (fun x => x.bank == k && x.row == row.toNat) (s.rank r).repairs with
        | none => s.reply .empty
        | some (before, _, behind) => (s.modRank r fun u => { u with repairs := before ++ behind }).reply .ok
    | _, _ => s.reply .range

/-- CLEAR_STATISTICS (R74, R137, R163): ENQUEUED takes the number of held jobs, the others 0; the overflow counter 0. -/
def execClearStatistics (s : State) : Answer :=
  .next <| State.reply
    { s with
      queue := { s.queue with stats := { Stats.zero with enqueued := BitVec.ofNat 32 s.heldCount } }
      refusals := { s.refusals with overflow := 0 } } .ok

/-- UNKNOWN (R154 b). -/
def execUnknown (_code : Byte) (s : State) : Answer := .next (s.reply .unknown)

/-! ### Transactions -/

/-- RESPONSE_READ (R155): `n` bytes returned on MDA, then the buffer emptied. -/
def execResponseRead (n : Nat) (s : State) : Answer :=
  .next { s with mgmt := { s.mgmt with mda := readBytes s.mgmt.response n, response := none } }

/-- REQUEST_DROPPED (R154 d): the request dropped and the buffer empty; without any data byte nothing changes. -/
def execRequestDropped (bytes : List Byte) (s : State) : Answer :=
  .next <|
    match bytes with
    | [] => s
    | _ :: _ => { s with mgmt := { s.mgmt with request := none, response := none } }

end Sys2Proof.Machine
end

