-- ==== Sys2Proof/Machine/Outputs.lean ====
section
/-! DEFINITION. The output pins: the beats of the rank ports (R127, R128) and the pulses of ALERT/ (R134). A beat or a pulse
whose slot has not come is not due, and the row changes nothing (DESIGN CHOICE, safe, log 8); one whose slot has come waits for
its row (DESIGN CHOICE, safe, log 23). -/

namespace Sys2Proof.Machine

open Sys2Proof

/-- The next beat of the port leaves and stands on the pins. -/
def RankUnit.emit (u : RankUnit) (slot : Nat) : RankUnit :=
  match u.port with
  | p :: rest => if p.slot ≤ slot then { u with port := rest, portOut := some p } else u
  | [] => u

/-- PORT_EMIT (R127): the next beat placed on port `r` leaves at its slot. -/
def execPortEmit (r : Rank) (s : State) : Answer :=
  .next (s.modRank r fun u => u.emit s.clock.slot)

/-- ALERT_PULSE (R134): the next pulse drives ALERT/ low for its slot and leaves the schedule. -/
def execAlertPulse (s : State) : Answer :=
  .next <|
    match s.refusals.schedule with
    | n :: rest =>
      if n ≤ s.clock.slot then { s with refusals := { s.refusals with schedule := rest, alert := some n } } else s
    | [] => s

end Sys2Proof.Machine
end

