-- ==== Sys2Proof/Machine/EngineRows.lean ====
section
/-! DEFINITION. The service engine's own rows: the later steps of a window (R84) and its expiry (R89). A step or an expiry that
is not due changes nothing (DESIGN CHOICE, safe, log 8); one that is due waits for its row (DESIGN CHOICE, safe, log 23). -/

namespace Sys2Proof.Machine

open Sys2Proof

/-- The slot an engine instant falls in: that of the beat last taken when `early`, the slot in progress otherwise (log 5). -/
def State.instantSlot (s : State) (early : Bool) : Nat :=
  if early then s.clock.slot - 1 else s.clock.slot

/-- The time base has come at least to `t` (log 6). -/
def State.reach (s : State) (t : Nat) : State := { s with clock := { s.clock with time := max s.clock.time t } }

/-- ENGINE_OPEN (R84 a): the beginning of the next step of the JOB window, when none is in progress. -/
def execEngineOpen (early : Bool) (s : State) : Answer :=
  .next <|
    match s.engine.window with
    | none => s
    | some w =>
      if w.stepOpen then s
      else
        match w.nextVictim with
        | none => s
        | some (j, v) => (s.reach (w.start + w.stepsDone * w.stepTime)).openStep (s.instantSlot early) w j v

/-- The end of a step: CLOSE driven, the bank CLOSED, the step complete (R84 b, c, R125). -/
def State.closeStep (s : State) (m : Nat) (w : Window) (j : Job) : State :=
  let t := { s with engine := { s.engine with window := some { w with stepOpen := false, stepsDone := w.stepsDone + 1 } } }
  (t.engineDrive m w.rank opClose j.bank 0).setOpen w.rank j.bank false

/-- ENGINE_CLOSE (R84 b): the end of the step in progress. -/
def execEngineClose (early : Bool) (s : State) : Answer :=
  .next <|
    match s.engine.window with
    | none => s
    | some w =>
      match w.purpose with
      | .job j =>
        if w.stepOpen then
          (s.reach (w.start + (w.stepsDone + 1) * w.stepTime)).closeStep (s.instantSlot early) w j
        else s
      | .vacant => s
      | .repay => s

/-- All steps of the window are complete, so that its expiry is the next thing it does (R84, R89). -/
def Window.spent (w : Window) : Bool := !w.stepOpen && decide (w.steps ≤ w.stepsDone)

/-- The window is over: IDLE, the rank AWAKE (R89, R143). -/
def State.endWindow (s : State) (w : Window) : State :=
  { (s.reach w.finish).modRank w.rank (fun u => { u with state := .awake }) with
    engine := { s.engine with window := none } }

/-- The outcome record of a window that ends by itself (R89, R90). -/
def Window.outcome (w : Window) : Outcome :=
  match w.purpose with
  | .job j =>
    { kind := if j.served + w.stepsDone = j.listed then .done else .partialEnd
      windowKind := some w.kind, rank := w.rank, job := some j.number, served := w.stepsDone, listed := j.listed }
  | .vacant => { kind := .vacant, windowKind := some w.kind, rank := w.rank, job := none, served := 0, listed := 0 }
  | .repay => { kind := .repaid, windowKind := some w.kind, rank := w.rank, job := none, served := 0, listed := 0 }

/-- A job retires DONE: counted, its entry reset, room in the queue (R70). The window has ended, so the active slot is empty. -/
def State.retireDone (s : State) (j : Job) : State :=
  let q := { s.queue with stats := { s.queue.stats with done := s.queue.stats.done + 1 } }
  (({ s with queue := q }).settleFull).resetEntry j.rank j.bank j.row

/-- A job returned by a partial window (R64 a to d). -/
def Job.returned (j : Job) (servedNow : Nat) : Job :=
  { j with state := .waiting, cls := .urgent, served := j.served + servedNow
           partials := min Config.partialsMax (j.partials + 1) }

/-- A job requeued at the head of the list, PARTIAL raised (R64). -/
def State.requeue (s : State) (j : Job) (servedNow : Nat) : State :=
  { s with queue := { s.queue with
      list := j.returned servedNow :: s.queue.list
      stats := { s.queue.stats with partials := s.queue.stats.partials + 1 } } }

/-- What the outcome changes besides the record: the job's retirement or requeue, or the counter and the debt (R89, R107). -/
def State.settleWindow (s : State) (w : Window) : State :=
  match w.purpose with
  | .job j => if j.served + w.stepsDone = j.listed then s.retireDone j else s.requeue j w.stepsDone
  | .vacant => { s with queue := { s.queue with stats := { s.queue.stats with vacant := s.queue.stats.vacant + 1 } } }
  | .repay =>
    ({ s with queue := { s.queue with stats := { s.queue.stats with repaid := s.queue.stats.repaid + 1 } } }).modRank w.rank
      fun u => { u with debt := u.debt - 1 }

/-- WINDOW_EXPIRY (R89): outcome record first, then the re-evaluation with its EMPTY records (R91). -/
def execWindowExpiry (s : State) : Answer :=
  .next <|
    match s.engine.window with
    | none => s
    | some w =>
      if w.spent then ((((s.endWindow w).pushOutcome w.outcome).settleWindow w).restage) else s

end Sys2Proof.Machine
end

