-- ==== Sys2Proof/Machine/Resets.lean ====
section
/-! DEFINITION. RESET/ falling and rising (R144, R145), power-on reset, and RESTART (R165). An edge to the level RESET/ already
has cannot occur and changes nothing (DESIGN CHOICE, safe, log 10). -/

namespace Sys2Proof.Machine

open Sys2Proof

/-- The outcome record of a window aborted by RESET/ (R90, R95). -/
def Window.aborted (w : Window) : Outcome :=
  match w.purpose with
  | .job j =>
    { kind := .aborted, windowKind := some w.kind, rank := w.rank, job := some j.number, served := w.stepsDone, listed := j.listed }
  | .vacant => { kind := .aborted, windowKind := some w.kind, rank := w.rank, job := none, served := 0, listed := 0 }
  | .repay => { kind := .aborted, windowKind := some w.kind, rank := w.rank, job := none, served := 0, listed := 0 }

/-- The engine after an abort by RESET/: IDLE, one ABORTED record pushed if a window was in progress (R95, R99). -/
def Engine.abort (e : Engine) : Engine :=
  match e.window with
  | some w => { window := none, newest := some w.aborted, previous := e.newest }
  | none => e

/-- What RESET/ falling does to a rank: RESET HOLD, timer STOPPED, count and debt 0, tables cleared, banks CLOSED, beats still
to leave discarded, IDLE on the pins (R144, R112, R22, R126, R129). -/
def RankUnit.resetFall (u : RankUnit) : RankUnit :=
  { u with
    state := .resetHold, coverage := .stopped, refreshCount := 0, debt := 0
    contexts := Vector.replicate 16 BankContext.empty
    bankOpen := Vector.replicate 16 false
    port := [], portOut := none }

/-- What RESET/ falling does to the queue: every held job DISCARDED, the flag clear (R72, R79, R59). -/
def State.discardAll (s : State) : Queue :=
  { s.queue with
    list := []
    full := false
    stats := s.queue.stats.addDiscarded (BitVec.ofNat 32 s.heldCount) }

/-- RESET_FALLING (R144; R116, R95). -/
def execResetFalling (s : State) : Answer :=
  .next <|
    if s.link.resetHigh then
      { s with
        link := { held := none, resetHigh := false }
        ranks := s.ranks.map RankUnit.resetFall
        queue := s.discardAll
        engine := s.engine.abort }
    else s

/-- RESET_RISING (R145, R116, R68 d): both ranks AWAKE, the link starts in NONE, the slot re-evaluated. -/
def execResetRising (s : State) : Answer :=
  .next <|
    if s.link.resetHigh then s
    else
      ({ s with
        link := { held := none, resetHigh := true }
        ranks := s.ranks.map fun u => { u with state := .awake } }).restage

/-- POWER_ON_RESET: every block at its reset values, with RESET/ and the straps at the given levels (R145, R153). Slot and time
base are numbered from 0 again (log 3, log 6). -/
def execPowerOnReset (resetHigh : Bool) (straps : BitVec 2) (s : State) : Answer :=
  .next { State.powerOn s.pending resetHigh straps with wire := s.wire }

/-- The CLOSE that RESTART drives when it aborts a step in progress (R96), in the first two adjacent free slots (R128 b). It
yields them to a command accepted after RESTART that R127 gives one of them (DESIGN CHOICE, unsafe, log 22; `State.forward`). -/
def State.abortClose (s : State) (m : Nat) : State :=
  match s.engine.window with
  | some w =>
    match w.purpose with
    | .job j => if w.stepOpen then s.engineDrive m w.rank opClose j.bank 0 else s
    | .vacant => s
    | .repay => s
  | none => s

/-- A rank after RESTART: its power-on values, with the beats of the port kept (R129, R165 c). -/
def RankUnit.restarted (u : RankUnit) (resetHigh : Bool) : RankUnit :=
  { RankUnit.powerOn resetHigh with port := u.port, portOut := u.portOut }

/-- RESTART (R165): every block at its power-on values, apart from the level of RESET/, the ports, the pulse schedule, the
address and the clocks; OK is placed after it. The statistics end at 0 whatever was discarded first (R79). -/
def execRestart (early : Bool) (s : State) : Answer :=
  let t := s.abortClose (s.instantSlot early)
  .next <| State.reply
    { State.powerOn s.pending s.link.resetHigh 0 with
      wire := s.wire
      clock := s.clock
      ranks := t.ranks.map fun u => u.restarted s.link.resetHigh
      refusals := { Refusals.powerOn with schedule := s.refusals.schedule, alert := s.refusals.alert }
      mgmt := s.mgmt } .ok

end Sys2Proof.Machine
end

