-- ==== Sys2Proof/Machine/Dispatch.lean ====
section
/-! DEFINITION. One arm per constructor of Instr, each one direct call of the row's meaning. -/

namespace Sys2Proof.Machine

open Sys2Proof

/-- The effect of a command on everything but the queue of waiting commands. -/
def exec (i : Instr) (s : State) : Host.Outcome State Fault Refusal :=
  match i with
  | .firstBeat beat => Sys2Proof.Machine.execFirstBeat beat s
  | .framingFault beat => Sys2Proof.Machine.execFramingFault beat s
  | .openRow beat => Sys2Proof.Machine.execOpenRow beat s
  | .closeBank beat => Sys2Proof.Machine.execCloseBank beat s
  | .closeAll beat => Sys2Proof.Machine.execCloseAll beat s
  | .read beat => Sys2Proof.Machine.execRead beat s
  | .write beat => Sys2Proof.Machine.execWrite beat s
  | .refresh beat => Sys2Proof.Machine.execRefresh beat s
  | .sleepEnter beat => Sys2Proof.Machine.execSleepEnter beat s
  | .sleepExit beat => Sys2Proof.Machine.execSleepExit beat s
  | .modeSet beat => Sys2Proof.Machine.execModeSet beat s
  | .modeGet beat => Sys2Proof.Machine.execModeGet beat s
  | .serviceGrant beat => Sys2Proof.Machine.execServiceGrant beat s
  | .undefinedOpcode beat => Sys2Proof.Machine.execUndefinedOpcode beat s
  | .portEmit rank => Sys2Proof.Machine.execPortEmit rank s
  | .alertPulse => Sys2Proof.Machine.execAlertPulse s
  | .engineOpen early => Sys2Proof.Machine.execEngineOpen early s
  | .engineClose early => Sys2Proof.Machine.execEngineClose early s
  | .windowExpiry => Sys2Proof.Machine.execWindowExpiry s
  | .trackingWindowClose rank => Sys2Proof.Machine.execTrackingWindowClose rank s
  | .stalenessExpiry => Sys2Proof.Machine.execStalenessExpiry s
  | .coverageTick => Sys2Proof.Machine.execCoverageTick s
  | .resetFalling => Sys2Proof.Machine.execResetFalling s
  | .resetRising => Sys2Proof.Machine.execResetRising s
  | .powerOnReset resetHigh straps => Sys2Proof.Machine.execPowerOnReset resetHigh straps s
  | .status => Sys2Proof.Machine.execStatus s
  | .readParameter identifier rank => Sys2Proof.Machine.execReadParameter identifier rank s
  | .trackWrite rank value => Sys2Proof.Machine.execTrackWrite rank value s
  | .rowsWrite rank value => Sys2Proof.Machine.execRowsWrite rank value s
  | .sectionWrite rank value => Sys2Proof.Machine.execSectionWrite rank value s
  | .maskWrite rank value => Sys2Proof.Machine.execMaskWrite rank value s
  | .radiusWrite rank value => Sys2Proof.Machine.execRadiusWrite rank value s
  | .tServiceWrite rank value => Sys2Proof.Machine.execTServiceWrite rank value s
  | .tUrgentWrite rank value => Sys2Proof.Machine.execTUrgentWrite rank value s
  | .tCeilingWrite rank value => Sys2Proof.Machine.execTCeilingWrite rank value s
  | .windowRefreshesWrite rank value => Sys2Proof.Machine.execWindowRefreshesWrite rank value s
  | .debtLimitWrite rank value => Sys2Proof.Machine.execDebtLimitWrite rank value s
  | .grantLenWrite rank value => Sys2Proof.Machine.execGrantLenWrite rank value s
  | .refreshLenWrite rank value => Sys2Proof.Machine.execRefreshLenWrite rank value s
  | .stepTimeWrite rank value => Sys2Proof.Machine.execStepTimeWrite rank value s
  | .coverTimeWrite rank value => Sys2Proof.Machine.execCoverTimeWrite rank value s
  | .stalePeriodWrite rank value => Sys2Proof.Machine.execStalePeriodWrite rank value s
  | .refusalDistanceWrite rank value => Sys2Proof.Machine.execRefusalDistanceWrite rank value s
  | .setBand band => Sys2Proof.Machine.execSetBand band s
  | .readTable rank bank => Sys2Proof.Machine.execReadTable rank bank s
  | .readQueue => Sys2Proof.Machine.execReadQueue s
  | .takeRefusal => Sys2Proof.Machine.execTakeRefusal s
  | .injectJob rank bank row cls => Sys2Proof.Machine.execInjectJob rank bank row cls s
  | .clearRank rank => Sys2Proof.Machine.execClearRank rank s
  | .writeRepair rank bank row spare => Sys2Proof.Machine.execWriteRepair rank bank row spare s
  | .eraseRepair rank bank row => Sys2Proof.Machine.execEraseRepair rank bank row s
  | .readRepair rank => Sys2Proof.Machine.execReadRepair rank s
  | .readStatistics => Sys2Proof.Machine.execReadStatistics s
  | .clearStatistics => Sys2Proof.Machine.execClearStatistics s
  | .restart early => Sys2Proof.Machine.execRestart early s
  | .unknown code => Sys2Proof.Machine.execUnknown code s
  | .responseRead count => Sys2Proof.Machine.execResponseRead count s
  | .requestDropped bytes => Sys2Proof.Machine.execRequestDropped bytes s
  | .writeParameterUnknownIdentifier identifier rank value => Sys2Proof.Machine.execWriteParameterUnknownIdentifier identifier rank value s

end Sys2Proof.Machine
end

