-- ==== Sys2Proof/Machine/Bus.lean ====
section
/-! DEFINITION. The management port on the two-wire bus: conditions, bytes and acknowledge bits (R153), write transactions
(R154) and read transactions (R155). The request whose last byte is received runs as its row does. An event that cannot come
where the transaction stands changes nothing (DESIGN CHOICE, safe, log 21). -/

namespace Sys2Proof.Machine

open Sys2Proof

/-- The transaction ends with a stop, or with a start that begins the next: MDA released, a request still being received
dropped (R154 d), and the buffer emptied if the transaction was a read (R155). -/
def Mgmt.endWith (m : Mgmt) (next : BusPhase) : Mgmt :=
  { m with
    bus := next, ack := false, request := none
    response := if m.bus = .reading then none else m.response }

/-- The first byte after a start: acknowledged when its seven address bits are the part's address; its eighth bit makes the
transaction a write (0) or a read (1). Otherwise the part takes no part in the transaction (R153). -/
def Mgmt.addressByte (m : Mgmt) (value : Byte) : Mgmt :=
  if value.extractLsb' 1 7 = m.address then
    if value.getLsbD 0 then { m with bus := .reading, ack := true, mda := [] } else { m with bus := .writing, ack := true }
  else { m with bus := .released, ack := false }

/-- The data bytes of the request being received, code first. -/
def Mgmt.received (m : Mgmt) : List Byte :=
  match m.request with
  | none => []
  | some q => q.code :: q.operands

/-- A data byte of a request acknowledged and kept; the first one empties the response buffer (R154). -/
def Mgmt.keepByte (m : Mgmt) (value : Byte) : Mgmt :=
  match m.request with
  | none => { m with ack := true, request := some { code := value, operands := [] }, response := none }
  | some q => { m with ack := true, request := some { q with operands := q.operands ++ [value] } }

/-- The last byte of a request has been received. -/
def Mgmt.requestOver (m : Mgmt) : Mgmt := { m with bus := .over, request := none }

/-- A data byte of a request: at the last one the request takes effect, within the acknowledge bit (R153, R154 a, b). -/
def State.dataByte (s : State) (value : Byte) (early : Bool) : Answer :=
  let m := s.mgmt.keepByte value
  match requestCommand early m.received with
  | some c => exec c { s with mgmt := m.requestOver }
  | none => .next { s with mgmt := m }

/-- A byte returned in a read transaction, and the acknowledge bit that the controller of the bus answers: the read position
advances by one at each byte it acknowledges (R155). -/
def Mgmt.sendByte (m : Mgmt) (acknowledged : Bool) : Mgmt :=
  { m with
    ack := false
    mda := m.mda ++ readBytes m.response 1
    response := if acknowledged then m.response.map fun x => { x with position := x.position + 1 } else m.response }

/-- One event on the two-wire bus (R153 to R155). A byte beyond the request's length is not acknowledged (R154 c). -/
def busEvent (e : BusEvent) (s : State) : Answer :=
  match e with
  | .start => .next { s with mgmt := s.mgmt.endWith .addressing }
  | .stop => .next { s with mgmt := s.mgmt.endWith .free }
  | .byte value early =>
    match s.mgmt.bus with
    | .addressing => .next { s with mgmt := s.mgmt.addressByte value }
    | .writing => s.dataByte value early
    | .over => .next { s with mgmt := { s.mgmt with ack := false } }
    | .free => .next s
    | .released => .next s
    | .reading => .next s
  | .read acknowledged =>
    match s.mgmt.bus with
    | .reading => .next { s with mgmt := s.mgmt.sendByte acknowledged }
    | .free => .next s
    | .addressing => .next s
    | .released => .next s
    | .writing => .next s
    | .over => .next s

end Sys2Proof.Machine
end

