-- ==== Sys2Proof/Machine/Step.lean ====
section
/-! DEFINITION. One step: the command at the front of the queue; when no command waits, the next event on the two-wire bus
(DESIGN CHOICE, safe, log 21); when there is none either, one IDLE beat slot (DESIGN CHOICE, safe, log 2). -/

namespace Sys2Proof.Machine

open Sys2Proof

/-- What an empty queue does when nothing is to come on the bus: the slot in progress passes with an IDLE beat (R113, R114). -/
def idleSlot (s : State) : Host.Outcome State Fault Refusal := .next s.takeIdle

/-- One step of the machine. -/
def step (s : State) : Host.Outcome State Fault Refusal :=
  match s.pending with
  | [] =>
    match s.wire with
    | [] => idleSlot s
    | e :: rest => busEvent e { s with wire := rest }
  | c :: rest => exec c { s with pending := rest }

/-- The command a table word spells put at the front of the queue; no word of this table spells one. -/
def State.withFetchWord (s : State) (nbits w : Nat) : State :=
  match decodeTableWord nbits w with
  | some c => { s with pending := c :: s.pending }
  | none => s

end Sys2Proof.Machine
end

