-- ==== Sys2Proof/Safety.lean ====
section
/-! DEFINITION. What the rules say of the part at every instant, as predicates on a state. Each names the rules it gathers;
claims are stated in these terms. -/

namespace Sys2Proof.Machine

open Sys2Proof

/-! ### Parameters and repair lists -/

/-- The values of the parameters of a rank and the relations among them (R25, R38, R100, R150, R160). -/
structure RankParams.Legal (p : RankParams) : Prop where
  rows : p.rows = 32768 ∨ p.rows = 65536 ∨ p.rows = 131072
  section_ : p.section_ = 512 ∨ p.section_ = 1024 ∨ p.section_ = 2048
  mask : p.mask < p.rows
  radius : p.radius = 1 ∨ p.radius = 2
  service : 64 ≤ p.tService ∧ p.tService ≤ 2048
  urgent : p.tUrgent ≤ 3072
  serviceUrgent : p.tService < p.tUrgent
  urgentCeiling : p.tUrgent < p.tCeiling
  ceiling : p.tCeiling ≤ 4095
  windowRefreshes : p.windowRefreshes = 1024 ∨ p.windowRefreshes = 2048 ∨ p.windowRefreshes = 4096 ∨
    p.windowRefreshes = 8192 ∨ p.windowRefreshes = 16384
  debtLimit : p.debtLimit ≤ 4
  step : 4 ≤ p.stepTime ∧ p.stepTime ≤ 100
  grantStep : p.stepTime ≤ p.grantLen
  refreshStep : p.stepTime ≤ p.refreshLen
  grant : 10 ≤ p.grantLen ∧ p.grantLen ≤ 1000
  refresh : 10 ≤ p.refreshLen ∧ p.refreshLen ≤ 1000
  cover : 1 ≤ p.coverTime ∧ p.coverTime ≤ 255

/-- A repair list: at most 16 records, each below ROWS and 64, no two covering a common pair (R42, R43). -/
structure RankUnit.RepairsLegal (u : RankUnit) : Prop where
  size : u.repairs.length ≤ 16
  inside : ∀ x ∈ u.repairs, x.row < u.params.rows ∧ x.spare < 64
  apart : u.repairs.Pairwise fun x y => x.clashes y = false

/-- The refresh unit: the count is below WINDOW_REFRESHES and the debt at most its limit (R100, R106). -/
structure RankUnit.RefreshLegal (u : RankUnit) : Prop where
  count : u.refreshCount < u.params.windowRefreshes
  debt : u.debt ≤ u.params.debtLimit

/-- Parameters, repair lists, refresh counts and debts of both ranks, and the device parameters, keep to their rules. -/
structure State.ParametersLegal (s : State) : Prop where
  params : ∀ r, (s.params r).Legal
  repairs : ∀ r, (s.rank r).RepairsLegal
  refresh : ∀ r, (s.rank r).RefreshLegal
  stalePeriod : s.bands.stalePeriod ≤ 255
  distance : 2 ≤ s.refusals.distance ∧ s.refusals.distance ≤ 15

/-! ### Tables -/

/-- A table and its bank record: at most 12 entries, no row twice, counts in range (R1, R2, R3). -/
structure BankContext.Legal (c : BankContext) : Prop where
  size : c.entries.length ≤ 12
  rows : (c.entries.map Entry.row).Nodup
  counts : ∀ e ∈ c.entries, e.count ≤ 4095
  floor : c.floor ≤ 4095
  untracked : c.untracked ≤ 65535

/-- Every table keeps to its rules (R1 to R3). -/
def State.TablesLegal (s : State) : Prop := ∀ r b, (s.context r b).Legal

/-! ### Refusal unit -/

/-- The log holds at most 8 records, the overflow counter is in range, and the pulses stand in slots of their own in rising
order (R134, R137). -/
structure Refusals.Legal (u : Refusals) : Prop where
  log : u.log.length ≤ 8
  overflow : u.overflow ≤ 255
  schedule : u.schedule.Pairwise (· < ·)

/-! ### Ranks and the engine -/

/-- A rank is in SERVICE exactly while the engine is in WINDOW on it (R80, R143). -/
def State.ServiceMatchesWindow (s : State) : Prop :=
  ∀ r, (s.rank r).state = .service ↔ s.windowOn r = true

/-- Both ranks are in RESET HOLD exactly while RESET/ is low, and the link then holds no beat (R116, R142). -/
structure State.ResetMatchesLine (s : State) : Prop where
  low : s.link.resetHigh = false → ∀ r, (s.rank r).state = .resetHold
  high : s.link.resetHigh = true → ∀ r, (s.rank r).state ≠ .resetHold
  held : s.link.resetHigh = false → s.link.held = none

/-- A coverage timer runs exactly while its rank is ASLEEP, with a residency of at most 256 (R148). -/
def RankUnit.TimerLegal (u : RankUnit) : Prop :=
  match u.coverage with
  | .stopped => u.state ≠ .asleep
  | .running k => u.state = .asleep ∧ k ≤ 256

/-- While a rank is ASLEEP or in RESET HOLD all its banks are CLOSED (R147). -/
def RankUnit.SleepsClosed (u : RankUnit) : Prop :=
  u.state = .asleep ∨ u.state = .resetHold → ∀ b : Bank, u.bankOpen.get b = false

/-- In a window the banks of its rank are CLOSED but for the job's bank while a step is in progress (R84, R125). -/
def State.WindowBanks (s : State) : Prop :=
  ∀ w, s.engine.window = some w → ∀ b : Bank,
    s.isOpen w.rank b = true ↔ (∃ j, w.purpose = .job j ∧ w.stepOpen = true ∧ b = j.bank)

/-- Rank states, timers, banks and window agree (R80, R84, R142, R147, R148). -/
structure State.RanksLegal (s : State) : Prop where
  service : s.ServiceMatchesWindow
  reset : s.ResetMatchesLine
  timer : ∀ r, (s.rank r).TimerLegal
  closed : ∀ r, (s.rank r).SleepsClosed
  window : s.WindowBanks

/-- The window record: capacity, length and step time in range, no more steps than are to be made, and a step in progress only when one is
still to be completed (R80, R83, R84). -/
structure Window.Legal (w : Window) : Prop where
  capacity : 1 ≤ w.capacity ∧ w.capacity ≤ 4
  length : 10 ≤ w.length ∧ w.length ≤ 1000
  step : 4 ≤ w.stepTime ∧ w.stepTime ≤ 100
  fits : w.stepTime * w.capacity ≤ w.length
  steps : w.stepsDone ≤ w.steps
  opened : w.stepOpen = true → w.stepsDone < w.steps
  begun : w.stepsDone = 0 → 0 < w.steps → w.stepOpen = true

/-! ### Rank ports -/

/-- A port carries at most one beat in each slot: the beats placed stand in slots of their own, and none in that of the beat last
driven, which is not a slot to come (R128). -/
structure RankUnit.PortLegal (u : RankUnit) (now : Nat) : Prop where
  apart : (u.port.map PortBeat.slot).Nodup
  driven : ∀ q, u.portOut = some q → q.slot ≤ now ∧ ∀ p ∈ u.port, p.slot ≠ q.slot

/-- Both ports carry at most one beat in each slot (R128). -/
def State.PortsLegal (s : State) : Prop := ∀ r, (s.rank r).PortLegal s.clock.slot

/-! ### The mitigation queue -/

/-- Every URGENT job stands before every NORMAL job (R62). -/
def UrgentFirst (l : List Job) : Prop :=
  l.Pairwise fun a b => a.cls = .normal → b.cls = .normal

/-- A job's victim list and served field agree: the list, when present, has 1 to 4 rows, none of them the hot row, and some
still to be served (R52, R55, R64, R67). -/
def Job.Legal (j : Job) : Prop :=
  match j.victims with
  | none => j.served = 0
  | some l => l.length ≤ 4 ∧ j.served < l.length ∧ l.Nodup ∧ j.row ∉ l

/-- No two held jobs name the same rank, bank and hot row, and at most 16 are held (R57). -/
structure State.HeldLegal (s : State) : Prop where
  size : s.heldCount ≤ 16
  apart : s.heldJobs.Pairwise fun a b => ¬ (a.rank = b.rank ∧ a.bank = b.bank ∧ a.row = b.row)

/-- The list: URGENT first, no job RUNNING; the active slot's job is RUNNING and of the window's rank (R57, R61, R62, R80). -/
structure State.ListLegal (s : State) : Prop where
  order : UrgentFirst s.queue.list
  states : ∀ j ∈ s.queue.list, j.state ≠ .running
  active : ∀ w j, s.engine.window = some w → w.purpose = .job j → j.state = .running ∧ j.rank = w.rank

/-- The staged slot: the job in state STAGED is the first eligible job of the list, with its victim list present, and there is
one whenever the list holds an eligible job (R66, R67). -/
def State.StagedLegal (s : State) : Prop :=
  match splitFirst s.eligible s.queue.list with
  | none => ∀ j ∈ s.queue.list, j.state = .waiting
  | some (before, j, behind) =>
    j.state = .staged ∧ j.victims.isSome = true ∧ (∀ x ∈ before ++ behind, x.state = .waiting)

/-- An entry is marked exactly when a held job names it, and every held job has its entry (R16). -/
def State.MarksMatchJobs (s : State) : Prop :=
  ∀ r b row, (∃ j ∈ s.heldJobs, j.names r b row = true) ↔
    (∃ e ∈ (s.context r b).entries, e.row = row ∧ e.mark = true)

/-- Every row named by an entry, a held job or a victim list lies in 0 to ROWS−1 of its rank (R2, R52, R55). -/
structure State.RowsInside (s : State) : Prop where
  entries : ∀ r b, ∀ e ∈ (s.context r b).entries, e.row < (s.params r).rows
  jobs : ∀ j ∈ s.heldJobs, j.row < (s.params j.rank).rows ∧ ∀ v ∈ j.victims.getD [], v < (s.params j.rank).rows

/-- A victim list present in a held job has at most twice RADIUS rows of its rank (R52): RADIUS is written only with TRACK OFF,
when the rank holds no job (R39, R40). -/
def State.ListsFitRadius (s : State) : Prop :=
  ∀ j ∈ s.heldJobs, (j.victims.getD []).length ≤ 2 * (s.params j.rank).radius

/-- A rank with TRACK OFF has empty tables and holds no job (R4, R40). -/
def State.UntrackedEmpty (s : State) : Prop :=
  ∀ r, (s.params r).track = false →
    (∀ b, (s.context r b).entries = []) ∧ ∀ j ∈ s.heldJobs, j.rank ≠ r

/-- The queue-full flag is set only while 16 jobs are held (R59). -/
def State.FullLegal (s : State) : Prop := s.queue.full = true → s.heldCount = 16

/-- The statistics balance: ENQUEUED = DONE + EMPTY + COVERED + DISCARDED + held jobs, modulo 2^32 (R74). -/
def State.Balanced (s : State) : Prop :=
  s.queue.stats.enqueued =
    s.queue.stats.done + s.queue.stats.empty + s.queue.stats.covered + s.queue.stats.discarded + BitVec.ofNat 32 s.heldCount

/-! ### The management port -/

/-- The address is one of 58H to 5BH; a request is being received only in a write transaction addressed to the part, is
incomplete and has emptied the buffer; MDA is released outside such a transaction; a response has been read in part only while
it is being returned (R153, R154, R155, R166). -/
structure Mgmt.Legal (m : Mgmt) : Prop where
  address : 0x58 ≤ m.address.toNat ∧ m.address.toNat ≤ 0x5B
  request : ∀ q, m.request = some q →
    m.bus = .writing ∧ requestIncomplete (q.code :: q.operands) = true ∧ m.response = none
  released : m.bus = .free ∨ m.bus = .addressing ∨ m.bus = .released → m.ack = false
  position : ∀ x, m.response = some x → m.bus ≠ .reading → x.position = 0

/-- What the rules say of the part at every instant. -/
structure State.Inv (s : State) : Prop where
  parameters : s.ParametersLegal
  tables : s.TablesLegal
  refusals : s.refusals.Legal
  ranks : s.RanksLegal
  ports : s.PortsLegal
  window : ∀ w, s.engine.window = some w → w.Legal
  jobs : ∀ j ∈ s.heldJobs, j.Legal
  held : s.HeldLegal
  list : s.ListLegal
  staged : s.StagedLegal
  marks : s.MarksMatchJobs
  inside : s.RowsInside
  radius : s.ListsFitRadius
  untracked : s.UntrackedEmpty
  full : s.FullLegal
  mgmt : s.mgmt.Legal
  balance : s.Balanced

/-! ### Vocabulary of the claims about the link -/

/-- `b` completes the held FIRST beat `f` of opcode `op` at the slot in progress, with RESET/ high and even parity (R114,
R119). -/
structure State.Completes (s : State) (op : BitVec 4) (f : FirstBeat) (b : SecondBeat) : Prop where
  line : s.link.resetHigh = true
  held : s.link.held = some f
  opcode : f.opcode = op
  parity : (ones (firstWord f) + ones (secondWord b)) % 2 = 0

/-- The slot of a SECOND beat is over and nothing is held any more (R113, R114). -/
def State.consumed (s : State) : State :=
  { s with clock := { s.clock with slot := s.clock.slot + 1 }, link := { s.link with held := none } }

/-- The beats of a command accepted at slot `n`, as received, at slots n+2 and n+3 (R127). -/
def forwardedBeats (n : Nat) (f : FirstBeat) (b : SecondBeat) : List PortBeat :=
  [{ slot := n + 2, word := firstWord f }, { slot := n + 3, word := secondWord b }]

/-- The beats of port `u` when a command accepted at slot `n` is forwarded: the beats already placed that stand in its way are
put off behind it (R127, R128 a; log 22). -/
def RankUnit.forwarding (u : RankUnit) (n : Nat) (f : FirstBeat) (b : SecondBeat) : List PortBeat :=
  makeWay (n + 2) (forwardedBeats n f b) u.port

/-- The beats of an engine command from slot `k`, built as R168 c) lays them out. -/
def engineBeats (k : Nat) (op : BitVec 4) (r : Rank) (bank : Bank) (operand : BitVec 17) : List PortBeat :=
  let f : FirstBeat := { opcode := op, rank := r, bank := bank, aux := 0 }
  let odd := decide ((ones (firstWord f) + ones (secondWord { parity := false, operand := operand })) % 2 = 1)
  [{ slot := k, word := firstWord f }, { slot := k + 1, word := secondWord { parity := odd, operand := operand } }]

/-- The SECOND beat a row of the link carries, none for the other rows. -/
def secondBeatOf : Instr → Option SecondBeat
  | .framingFault (.second b) => some b
  | .openRow b => some b
  | .closeBank b => some b
  | .closeAll b => some b
  | .read b => some b
  | .write b => some b
  | .refresh b => some b
  | .sleepEnter b => some b
  | .sleepExit b => some b
  | .modeSet b => some b
  | .modeGet b => some b
  | .serviceGrant b => some b
  | .undefinedOpcode b => some b
  | _ => none

/-- The row that the held FIRST beat names, with the SECOND beat `b` (spec/12, section 12.1). -/
def heldRow (f : FirstBeat) (b : SecondBeat) : Instr :=
  match f.opcode.toNat with
  | 1 => .openRow b
  | 2 => .closeBank b
  | 3 => .closeAll b
  | 4 => .read b
  | 5 => .write b
  | 6 => .refresh b
  | 7 => .sleepEnter b
  | 8 => .sleepExit b
  | 9 => .modeSet b
  | 10 => .modeGet b
  | 12 => .serviceGrant b
  | _ => .undefinedOpcode b

/-- The checks of R119 and R121 in their order: each line is the condition that refuses and its reason. -/
def State.acceptanceTable (s : State) (f : FirstBeat) (b : SecondBeat) : List (Bool × Reason) :=
  let st := (s.rank f.rank).state
  let op := f.opcode.toNat
  [(decide ((ones (firstWord f) + ones (secondWord b)) % 2 = 1), .parity),
   (decide (op = 0 ∨ op = 11 ∨ 13 ≤ op), .undefined),
   (decide (st = .asleep ∧ op ≠ 8), .asleep),
   (decide (st = .awake ∧ op = 8), .notAsleep),
   (decide (st = .service), .window),
   (decide (op = 12) && (s.engine.window.any fun w => decide (w.rank ≠ f.rank)), .engineBusy),
   (decide (op = 1) && s.isOpen f.rank f.bank, .bankOpen),
   (decide (op = 4 ∨ op = 5) && !s.isOpen f.rank f.bank, .bankClosed),
   (decide ((op = 6 ∨ op = 7 ∨ op = 12) ∧ ∃ k : Bank, s.isOpen f.rank k = true), .bankOpen),
   (decide (op = 1) && s.rowHeld f.rank f.bank (b.operand.toNat % (s.params f.rank).rows), .rowHold)]

/-- The reason of the first check that fails, none when all pass (R119). -/
def State.firstFailure (s : State) (f : FirstBeat) (b : SecondBeat) : Option Reason :=
  ((s.acceptanceTable f b).find? fun line => line.1).map fun line => line.2

/-- The report of a complete command refused for `reason` (R133, R168). -/
def refusalReport (reason : Reason) (f : FirstBeat) (b : SecondBeat) : Report :=
  let op := f.opcode.toNat
  { reason := reason
    source := some (f.opcode, f.rank)
    bank := if op = 1 ∨ op = 2 ∨ op = 4 ∨ op = 5 then some f.bank else none
    operand :=
      if op = 1 ∨ op = 9 then some b.operand
      else if op = 4 ∨ op = 5 then some (b.operand &&& 0x0FFFF#17)
      else none }

/-- The report of a held FIRST beat refused for framing (R115, R133). -/
def incompleteReport (f : FirstBeat) : Report :=
  let op := f.opcode.toNat
  { reason := .framing
    source := some (f.opcode, f.rank)
    bank := if op = 1 ∨ op = 2 ∨ op = 4 ∨ op = 5 then some f.bank else none
    operand := none }

/-! ### Vocabulary of the claims about the bus -/

/-- What a run of events on the two-wire bus answers, when nothing else happens between them. -/
def busRun : List BusEvent → State → Answer
  | [], s => .next s
  | e :: rest, s =>
    match busEvent e s with
    | .next t => busRun rest t
    | .fault x => .fault x
    | .refused x => .refused x

/-- A start, the address byte of a write or of a read addressed to the part. -/
def State.addressed (s : State) (reading : Bool) : List BusEvent :=
  [.start, .byte (s.mgmt.address ++ BitVec.ofBool reading) false]

/-- Data bytes sent by the controller of the bus. -/
def sentBytes (early : Bool) (bytes : List Byte) : List BusEvent := bytes.map fun x => .byte x early

/-- The state when a start (`again`) or a stop has ended the transaction. -/
def State.afterTransaction (s : State) (again : Bool) : State :=
  { s with mgmt := { s.mgmt with bus := if again then .addressing else .free } }

/-- The condition that ends a transaction. -/
def endCondition (again : Bool) : BusEvent := if again then .start else .stop

/-! ### Vocabulary of the claims about jobs and windows -/

/-- The rank of the job is AWAKE or in SERVICE (R65). -/
def State.RankServes (s : State) (j : Job) : Prop :=
  (s.rank j.rank).state = .awake ∨ (s.rank j.rank).state = .service

/-- `j` is the first job of rank `r` in list order, standing between `before` and `behind`. -/
structure State.FirstOfRank (s : State) (r : Rank) (before : List Job) (j : Job) (behind : List Job) : Prop where
  list : s.queue.list = before ++ j :: behind
  earlier : ∀ x ∈ before, x.rank ≠ r
  rank : j.rank = r

/-- `l` is the victim list of the job: present in it, or absent and computed now (R67, R69). -/
def State.VictimsAre (s : State) (j : Job) (l : List Nat) : Prop :=
  j.victims = some l ∨ (j.victims = none ∧ s.victimsFor j = l)

/-- A window of a length and a purpose as it starts on rank `r` now (R80, R83). -/
def State.freshWindow (s : State) (r : Rank) (kind : WindowKind) (purpose : Purpose) (length : Nat) : Window :=
  { rank := r, kind := kind, purpose := purpose, length := length
    capacity := min 4 (length / (s.params r).stepTime), stepTime := (s.params r).stepTime
    start := s.clock.time, stepsDone := 0, stepOpen := false }

/-- The job of the active slot: RUNNING, with its victim list (R69). -/
def Job.taken (j : Job) (l : List Nat) : Job := { j with state := .running, victims := some l }

/-- The listed jobs after the jobs of rank `r` have left, with the queue-full flag cleared when there is room (R59, R71,
R72). -/
def State.queueWithout (s : State) (r : Rank) (stats : Stats) : Queue :=
  let rest := s.queue.list.filter fun j => j.rank != r
  { s.queue with
    list := rest
    full := s.queue.full && decide (16 ≤ rest.length + (if s.active.isSome then 1 else 0))
    stats := stats }

/-- The number of listed jobs of rank `r`. -/
def State.listedOf (s : State) (r : Rank) : BitVec 32 :=
  BitVec.ofNat 32 (s.queue.list.countP fun j => j.rank == r)

/-- The table with the entry of `row` at count 0, inherited no, mark no (R17). -/
def BankContext.entryReset (c : BankContext) (row : Nat) : BankContext :=
  { c with entries := c.entries.map fun e => if e.row = row then { e with count := 0, inherited := false, mark := false } else e }

/-- One REFRESH counted on a rank: the count that reaches WINDOW_REFRESHES closes the tracking window (R104, R19). -/
def RankUnit.refreshCounted (u : RankUnit) : RankUnit :=
  if u.refreshCount + 1 = u.params.windowRefreshes then
    { u with refreshCount := 0, contexts := u.contexts.map BankContext.halve }
  else { u with refreshCount := u.refreshCount + 1 }

end Sys2Proof.Machine
end

