-- ==== Sys2Proof/Certificates/Slice0/Obligations.lean ====
section
/-! DEFINITION. The statements for the provers. Each docstring cites the rules of spec/ the statement comes from; a clause
that rests on a choice of the model names its log entry. -/

open Sys2Proof Sys2Proof.Machine

/-! ### Steps, power-on -/

/-- A step runs the command at the front of the queue on the rest. The queue of waiting commands and its order are the model's
choice (log 1); spec/95 lists what one such step holds. -/
def Obligations.StepRunsFrontCommand : Prop :=
  ∀ (c : Instr) (rest : List Instr) (s : State),
    s.pending = c :: rest → step s = exec c { s with pending := rest }

/-- On an empty queue the next event on the two-wire bus comes (the model's choice, log 21); when there is none, one slot passes
with an IDLE beat: nothing else changes in NONE or while RESET/ is low, a held beat is refused FRAMING otherwise (the model's
choice, log 2; the beat itself by R114, R115 c, R116). -/
def Obligations.EmptyQueuePassesIdleSlot : Prop :=
  ∀ s : State, s.pending = [] →
    (∀ e rest, s.wire = e :: rest → step s = busEvent e { s with wire := rest }) ∧
    (s.wire = [] →
      (s.link.resetHigh = false ∨ s.link.held = none →
        step s = .next { s with clock := { s.clock with slot := s.clock.slot + 1 } }) ∧
      (∀ f, s.link.resetHigh = true → s.link.held = some f →
        step s = .next (s.consumed.report s.clock.slot (incompleteReport f))))

/-- Every command answers a next state in every state, and leaves the waiting commands and the coming bus events alone (the two
queues are the model's, log 1 and log 21). -/
def Obligations.EveryCommandCompletes : Prop :=
  ∀ (c : Instr) (s : State), ∃ t, exec c s = .next t ∧ t.pending = s.pending ∧ t.wire = s.wire

/-- POWER_ON_RESET leaves the values of R22, R37, R54, R79, R99, R112, R126, R141, R145, R152, R153 and R166, and the reset
state is that of RESET/ high and both straps 0 (log 11). Clauses that are the model's choice: the counting of slots and time
from 0 (log 3, log 6), no beat, pulse or byte yet on the pins, portOut, alert and mda (log 14), and nothing waiting in the queue
of commands (log 1) or to come on the bus (log 21). -/
def Obligations.PowerOnResetValues : Prop :=
  let params : RankParams :=
    { track := false, rows := 65536, section_ := 1024, mask := 0, radius := 2
      tService := 512, tUrgent := 1024, tCeiling := 1536
      windowRefreshes := 8192, debtLimit := 2
      grantLen := 200, refreshLen := 35, stepTime := 6, coverTime := 64 }
  let unit (high : Bool) : RankUnit :=
    { params := params, repairs := [], state := if high then .awake else .resetHold
      coverage := .stopped, refreshCount := 0, debt := 0
      contexts := Vector.replicate 16 { entries := [], floor := 0, untracked := 0, saturated := false }
      bankOpen := Vector.replicate 16 false, port := [], portOut := none }
  let values (waiting : List Instr) (coming : List BusEvent) (high : Bool) (straps : BitVec 2) : State :=
    { pending := waiting
      wire := coming
      clock := { slot := 0, time := 0 }
      link := { held := none, resetHigh := high }
      ranks := ⟨unit high, unit high⟩
      bands := { band := 3, stale := false, stalePeriod := 32, timer := .running 32 0 }
      queue := { list := [], nextNumber := 0, full := false, stats := ⟨0, 0, 0, 0, 0, 0, 0, 0, 0⟩ }
      engine := { window := none, newest := none, previous := none }
      refusals := { schedule := [], alert := none, sequence := 0, log := [], overflow := 0, distance := 6 }
      mgmt := { address := BitVec.ofNat 7 (0x58 + straps.toNat), request := none, response := none
                bus := .free, ack := false, mda := [] } }
  (∀ high straps s, exec (.powerOnReset high straps) s = .next (values s.pending s.wire high straps)) ∧
    State.reset = values [] [] true 0

/-! ### Beats and assembly -/

/-- The places of the fields in a beat (spec/12, section 12.1), and the even parity of every engine command (R168 c). -/
def Obligations.BeatLayout : Prop :=
  (∀ f : FirstBeat, (firstWord f).toNat =
    1 * 2 ^ 18 + f.opcode.toNat * 2 ^ 14 + f.rank.val * 2 ^ 13 + f.bank.val * 2 ^ 9 + f.aux.toNat) ∧
  (∀ b : SecondBeat, (secondWord b).toNat =
    2 * 2 ^ 18 + (if b.parity then 1 else 0) * 2 ^ 17 + b.operand.toNat) ∧
  (∀ (op : BitVec 4) (r : Rank) (bank : Bank) (operand : BitVec 17),
    (ones (firstWord (engineFirst op r bank)) +
      ones (secondWord (engineSecond (engineFirst op r bank) operand))) % 2 = 0)

/-- A FIRST beat is held; a beat already held is refused FRAMING; while RESET/ is low the beat is ignored
(R114, R115 b, R116). -/
def Obligations.FirstBeatIsHeld : Prop :=
  ∀ (f : FirstBeat) (s : State),
    (s.link.resetHigh = false →
      exec (.firstBeat f) s = .next { s with clock := { s.clock with slot := s.clock.slot + 1 } }) ∧
    (s.link.resetHigh = true → s.link.held = none →
      exec (.firstBeat f) s =
        .next { s with clock := { s.clock with slot := s.clock.slot + 1 }, link := { s.link with held := some f } }) ∧
    (∀ g, s.link.resetHigh = true → s.link.held = some g →
      exec (.firstBeat f) s =
        .next (({ s.consumed with link := { s.link with held := some f } }).report s.clock.slot (incompleteReport g)))

/-- A framing fault refuses one unit of traffic: a lone SECOND or INVALID beat with no field, a held beat with its opcode,
rank and bank; while RESET/ is low nothing is refused. A SECOND beat in NONE or while RESET/ is low does so under every row that
carries one (R115 a, c, d, e; R116; that the beat decides and not the row's name is log 4). -/
def Obligations.FramingFaultRefusesOnce : Prop :=
  ∀ (b : SecondBeat) (s : State),
    let passed : State := { s with clock := { s.clock with slot := s.clock.slot + 1 } }
    let alone : State :=
      s.consumed.report s.clock.slot { reason := .framing, source := none, bank := none, operand := none }
    (s.link.resetHigh = false →
      (∀ x : FaultBeat, exec (.framingFault x) s = .next passed) ∧
      (∀ c : Instr, secondBeatOf c = some b → exec c s = .next passed)) ∧
    (s.link.resetHigh = true → s.link.held = none →
      exec (.framingFault .invalid) s = .next alone ∧
      (∀ c : Instr, secondBeatOf c = some b → exec c s = .next alone)) ∧
    (∀ g, s.link.resetHigh = true → s.link.held = some g → ∀ x : FaultBeat, x = .idle ∨ x = .invalid →
      exec (.framingFault x) s = .next (s.consumed.report s.clock.slot (incompleteReport g)))

/-! ### Acceptance and refusal -/

/-- A complete command is refused with the reason of the first check that fails, reported at the slot of its SECOND beat, and
changes nothing but the refusal unit; ROW HOLD has a statement of its own. A complete command with an undefined opcode and even
parity is refused UNDEFINED with its opcode and rank alone, whatever the state of the part. A row with a SECOND beat does in
HOLDING FIRST what the row of the held opcode does, accepted or refused (R117, R119, R120, R121, R133; that the beats decide and
not the row's name, in the first and the last clause, is log 4). -/
def Obligations.FirstFailingCheckRefuses : Prop :=
  (∀ (c : Instr) (b : SecondBeat) (s : State) (f : FirstBeat) (reason : Reason),
    secondBeatOf c = some b → s.link.resetHigh = true → s.link.held = some f →
    s.firstFailure f b = some reason → reason ≠ .rowHold →
    exec c s = .next (s.consumed.report s.clock.slot (refusalReport reason f b))) ∧
  (∀ (b : SecondBeat) (s : State) (f : FirstBeat),
    s.Completes f.opcode f b → f.opcode.toNat = 0 ∨ f.opcode.toNat = 11 ∨ 13 ≤ f.opcode.toNat →
    exec (.undefinedOpcode b) s =
      .next (s.consumed.report s.clock.slot
        { reason := .undefined, source := some (f.opcode, f.rank), bank := none, operand := none })) ∧
  (∀ (c : Instr) (b : SecondBeat) (s : State) (f : FirstBeat),
    secondBeatOf c = some b → s.link.held = some f → exec c s = exec (heldRow f b) s)

/-- A refusal report takes the sequence number, places one pulse of its own behind the latest one, and is logged or raises
the overflow counter; nothing else changes (R132, R134, R136, R137). -/
def Obligations.RefusalTakesNumberPulseAndRecord : Prop :=
  ∀ (s : State) (n : Nat) (x : Report),
    let u := s.refusals
    let pulse := match u.schedule.getLast? with
      | some latest => max (n + u.distance) (latest + 1)
      | none => n + u.distance
    (u.log.length < 8 →
      s.report n x = { s with refusals := { u with
        schedule := u.schedule ++ [pulse], sequence := u.sequence + 1
        log := u.log ++ [{ sequence := u.sequence, report := x }] } }) ∧
    (8 ≤ u.log.length →
      s.report n x = { s with refusals := { u with
        schedule := u.schedule ++ [pulse], sequence := u.sequence + 1
        overflow := min 255 (u.overflow + 1) } })

/-- An OPEN of a held row is refused ROW HOLD and evaluated: nothing for a marked entry whose job is not NORMAL in the list,
a promotion for one whose job is, an attempt of class URGENT for an unmarked one (R13, R14, R122). -/
def Obligations.RowHoldRefusesAndEvaluates : Prop :=
  ∀ (s : State) (f : FirstBeat) (b : SecondBeat) (e : Entry),
    let row := b.operand.toNat % (s.params f.rank).rows
    let refused := s.consumed.report s.clock.slot
      { reason := .rowHold, source := some (f.opcode, f.rank), bank := some f.bank, operand := some b.operand }
    s.Completes opOpen f b → (s.rank f.rank).state = .awake → s.isOpen f.rank f.bank = false →
    (s.params f.rank).Legal → (s.context f.rank f.bank).find row = some e → s.ceiling f.rank ≤ e.count →
    (e.mark = true → (∀ j ∈ s.queue.list, j.names f.rank f.bank row = true → j.cls = .urgent) →
      exec (.openRow b) s = .next refused) ∧
    (e.mark = true → (∃ j ∈ s.queue.list, j.names f.rank f.bank row = true ∧ j.cls = .normal) →
      exec (.openRow b) s = .next (refused.promote f.rank f.bank row)) ∧
    (e.mark = false → 16 ≤ s.heldCount →
      exec (.openRow b) s = .next { refused with queue := { s.queue with full := true } }) ∧
    (e.mark = false → s.heldCount < 16 →
      exec (.openRow b) s = .next (refused.acceptJob f.rank f.bank row .urgent .count e.count))

/-! ### Accepted commands -/

/-- An accepted CLOSE closes its bank, an accepted CLOSE ALL all 16, an accepted MODE SET or MODE GET none; each is forwarded
as received, and nothing else changes (R117, R121, R124 b and c, R127; that an engine command still on the port gives way, here and
in every statement of a forwarded command, is log 22). -/
def Obligations.CloseAndModeCommandsForwarded : Prop :=
  ∀ (s : State) (f : FirstBeat) (b : SecondBeat),
    let after (banks : Vector Bool 16 → Vector Bool 16) : State :=
      s.consumed.modRank f.rank fun u =>
        { u with bankOpen := banks u.bankOpen, port := u.forwarding s.clock.slot f b }
    (s.rank f.rank).state = .awake →
    (s.Completes opClose f b →
      exec (.closeBank b) s = .next (after fun banks => banks.set f.bank.val false f.bank.isLt)) ∧
    (s.Completes opCloseAll f b → exec (.closeAll b) s = .next (after fun _ => Vector.replicate 16 false)) ∧
    (s.Completes opModeSet f b → exec (.modeSet b) s = .next (after fun banks => banks)) ∧
    (s.Completes opModeGet f b → exec (.modeGet b) s = .next (after fun banks => banks))

/-- A READ or WRITE to an open bank is forwarded, and closes the bank exactly when bit 16 of its SECOND beat is set; nothing
else changes (R118, R121, R124 d, R127, R168; log 22 as above). -/
def Obligations.AccessForwardedWithCloseAfter : Prop :=
  ∀ (s : State) (f : FirstBeat) (b : SecondBeat),
    let after := s.consumed.modRank f.rank fun u => { u with
      bankOpen := if 2 ^ 16 ≤ b.operand.toNat then u.bankOpen.set f.bank.val false f.bank.isLt else u.bankOpen
      port := u.forwarding s.clock.slot f b }
    (s.rank f.rank).state = .awake → s.isOpen f.rank f.bank = true →
    (s.Completes opRead f b → exec (.read b) s = .next after) ∧
    (s.Completes opWrite f b → exec (.write b) s = .next after)

/-- An OPEN to a closed bank of an AWAKE rank, of a row that is not held, opens the bank, is forwarded, and is a counted
activation of its operand modulo ROWS (R4, R118, R121, R122, R123, R124 a, R127; log 22 as above). -/
def Obligations.OpenForwardedAndCounted : Prop :=
  ∀ (s : State) (f : FirstBeat) (b : SecondBeat),
    let row := b.operand.toNat % (s.params f.rank).rows
    let forwarded := s.consumed.modRank f.rank fun u => { u with
      bankOpen := u.bankOpen.set f.bank.val true f.bank.isLt
      port := u.forwarding s.clock.slot f b }
    s.Completes opOpen f b → (s.rank f.rank).state = .awake → s.isOpen f.rank f.bank = false →
    s.rowHeld f.rank f.bank row = false →
    exec (.openRow b) s = .next (forwarded.countActivation f.rank f.bank row)

/-! ### Tables -/

/-- With TRACK OFF an activation changes nothing. With TRACK ON it raises the row's entry, creates one of count 1, replaces
the oldest of the smallest replaceable entries, or is counted as untracked; the first three are followed by evaluation of the
row's entry (R4 to R9). -/
def Obligations.CountedActivationUpdatesTable : Prop :=
  ∀ (s : State) (r : Rank) (b : Bank) (row : Nat),
    let c := s.context r b
    let ceiling := s.ceiling r
    let becomes (c' : BankContext) : Prop :=
      s.countActivation r b row = (s.modContext r b fun _ => c').evaluate r b row
    ((s.params r).track = false → s.countActivation r b row = s) ∧
    ((s.params r).track = true →
      (∀ before e behind, c.entries = before ++ e :: behind → e.row = row → (∀ x ∈ before ++ behind, x.row ≠ row) →
        becomes { c with entries := before ++ { e with count := min 4095 (e.count + 1) } :: behind }) ∧
      ((∀ x ∈ c.entries, x.row ≠ row) →
        (c.entries.length < 12 →
          becomes { c with entries := c.entries ++ [{ row := row, count := 1, inherited := false, mark := false }] }) ∧
        (∀ before e behind, c.entries.length = 12 → c.entries = before ++ e :: behind →
          e.mark = false → e.count < ceiling →
          (∀ x ∈ before, x.mark = false → x.count < ceiling → e.count < x.count) →
          (∀ x ∈ behind, x.mark = false → x.count < ceiling → e.count ≤ x.count) →
          becomes { c with
            entries := before ++ behind ++ [{ row := row, count := e.count + 1, inherited := true, mark := false }]
            floor := e.count }) ∧
        (c.entries.length = 12 → (∀ x ∈ c.entries, x.mark = true ∨ ceiling ≤ x.count) →
          s.countActivation r b row =
            s.modContext r b fun _ => { c with untracked := min 65535 (c.untracked + 1), saturated := true })))

/-- The outcomes of the evaluation of one entry by its mark, its count against S and U, its job and the room in the queue
(R10, R11, R12, R58, R59). -/
def Obligations.EvaluationDecides : Prop :=
  ∀ (s : State) (r : Rank) (b : Bank) (row : Nat),
    ((s.context r b).find row = none → s.evaluate r b row = s) ∧
    ∀ e, (s.context r b).find row = some e →
      (e.mark = false → e.count < s.serviceLevel r → s.evaluate r b row = s) ∧
      (e.mark = false → s.serviceLevel r ≤ e.count → 16 ≤ s.heldCount →
        s.evaluate r b row = { s with queue := { s.queue with full := true } }) ∧
      (e.mark = false → s.serviceLevel r ≤ e.count → s.heldCount < 16 → e.count < s.urgentLevel r →
        s.evaluate r b row = s.acceptJob r b row .normal .count e.count) ∧
      (e.mark = false → s.serviceLevel r ≤ e.count → s.heldCount < 16 → s.urgentLevel r ≤ e.count →
        s.evaluate r b row = s.acceptJob r b row .urgent .count e.count) ∧
      (e.mark = true → e.count < s.urgentLevel r → s.evaluate r b row = s) ∧
      (e.mark = true → s.urgentLevel r ≤ e.count →
        (∀ j ∈ s.queue.list, j.names r b row = true → j.cls = .urgent) → s.evaluate r b row = s) ∧
      (e.mark = true → s.urgentLevel r ≤ e.count →
        (∃ j ∈ s.queue.list, j.names r b row = true ∧ j.cls = .normal) → s.evaluate r b row = s.promote r b row)

/-- A tracking-window close halves every count and floor of the rank, removes the unmarked entries that fall to 0, clears the
saturated flags, keeps the untracked opens, and touches nothing of the other rank. The close as signalled also leaves the
refresh count at 0 (R19, R104; log 9). -/
def Obligations.TrackingCloseHalvesTables : Prop :=
  let halved (c : BankContext) : BankContext :=
    { entries := (c.entries.filter fun e => e.mark || decide (2 ≤ e.count)).map fun e => { e with count := e.count / 2 }
      floor := c.floor / 2
      untracked := c.untracked
      saturated := false }
  (∀ (s : State) (r : Rank), exec (.trackingWindowClose r) s =
    .next (s.modRank r fun u => { u with refreshCount := 0, contexts := u.contexts.map halved })) ∧
  (∀ c : BankContext, c.halve = halved c)

/-! ### Thresholds and time -/

/-- The effective thresholds: the programmed ones times (4 − band)/4, rounded down and at least 16, with the band 3 while the
stale flag is yes. They keep their order and lie between 16 and 4095, which only the ceiling 4095 at band 0 reaches
(R27, R28). -/
def Obligations.EffectiveThresholdsDerated : Prop :=
  ∀ (s : State) (r : Rank),
    let band := if s.bands.stale then 3 else s.bands.band.val
    s.serviceLevel r = max 16 ((s.params r).tService * (4 - band) / 4) ∧
    s.urgentLevel r = max 16 ((s.params r).tUrgent * (4 - band) / 4) ∧
    s.ceiling r = max 16 ((s.params r).tCeiling * (4 - band) / 4) ∧
    ((s.params r).Legal →
      16 ≤ s.serviceLevel r ∧ s.serviceLevel r ≤ s.urgentLevel r ∧ s.urgentLevel r ≤ s.ceiling r ∧ s.ceiling r ≤ 4095 ∧
        (s.ceiling r = 4095 → (s.params r).tCeiling = 4095 ∧ band = 0))

/-- The staleness timer that has measured its period expires: flag set, band 3 effective, timer STOPPED. A 1 ms boundary
raises each running coverage timer up to 256 and the measured time of a running staleness timer up to its period
(R30, R31, R148; that one row is the boundary for both timers is log 7, and that a timer which has measured its period waits
there for STALENESS_EXPIRY is log 23). -/
def Obligations.MillisecondTimers : Prop :=
  (∀ (s : State) (period measured : Nat), s.bands.timer = .running period measured → period ≤ measured →
    exec .stalenessExpiry s = .next { s with bands := { s.bands with stale := true, timer := .stopped } } ∧
    ({ s with bands := { s.bands with stale := true, timer := .stopped } }).effectiveBand = 3) ∧
  (∀ s : State, exec .coverageTick s = .next { s with
    ranks := s.ranks.map fun u => { u with coverage := match u.coverage with
      | .stopped => .stopped
      | .running k => .running (if k < 256 then k + 1 else 256) }
    bands := { s.bands with timer := match s.bands.timer with
      | .stopped => .stopped
      | .running period measured => .running period (if measured < period then measured + 1 else period) } })

/-! ### Victims -/

/-- The victim list in the order −1, +1, −2, +2, the last two only with radius 2: of an ordinary row, the logical images of
the positions in the bank, in the row's section and not repaired; of a row held in a spare, the rows that records place in the
neighbouring spares (R48 to R51). -/
def Obligations.VictimListInOrder : Prop :=
  ∀ (p : RankParams) (repairs : List RepairRecord) (b : Bank) (row : Nat),
    let offsets : List Int := if p.radius = 2 then [-1, 1, -2, 2] else [-1, 1]
    (coveringRow repairs b row = none →
      victimsOf p repairs b row = offsets.filterMap fun d =>
        let position := row ^^^ p.mask
        let c := (position : Int) + d
        if 0 ≤ c ∧ c < p.rows ∧ c.toNat / p.section_ = position / p.section_ ∧
            coveringRow repairs b (c.toNat ^^^ p.mask) = none
        then some (c.toNat ^^^ p.mask) else none) ∧
    (∀ x, coveringRow repairs b row = some x →
      victimsOf p repairs b row = offsets.filterMap fun d =>
        let t := (x.spare : Int) + d
        if 0 ≤ t ∧ t < 64 then (coveringSpare repairs b t.toNat).map fun y => y.row else none)

/-- A victim list never names the hot row, never holds more than twice the radius rows, names no row twice, and names logical
rows of the bank only (R52). -/
def Obligations.VictimListsAreSound : Prop :=
  ∀ (u : RankUnit) (b : Bank) (row : Nat), u.params.Legal → u.RepairsLegal → row < u.params.rows →
    let l := victimsOf u.params u.repairs b row
    row ∉ l ∧ l.length ≤ 2 * u.params.radius ∧ l.Nodup ∧ ∀ v ∈ l, v < u.params.rows

/-! ### The queue -/

/-- An accepted job takes the next number and its place (NORMAL at the tail, URGENT directly behind the last URGENT job), is
counted in ENQUEUED, marks its entry, and the staged slot is re-evaluated (R16, R56, R58 b, R60, R62). -/
def Obligations.NewJobTakesItsPlace : Prop :=
  ∀ (s : State) (r : Rank) (b : Bank) (row : Nat) (cls : JobClass) (origin : Origin) (count : Nat)
    (urgents normals : List Job),
    s.queue.list = urgents ++ normals → (∀ x ∈ urgents, x.cls = .urgent) → (∀ x ∈ normals, x.cls = .normal) →
    let j : Job :=
      { number := s.queue.nextNumber, rank := r, bank := b, row := row, cls := cls, origin := origin, enqueued := count
        state := .waiting, victims := none, served := 0, partials := 0 }
    let q : Queue := { s.queue with
      list := match cls with
        | .normal => urgents ++ normals ++ [j]
        | .urgent => urgents ++ j :: normals
      nextNumber := s.queue.nextNumber + 1
      stats := { s.queue.stats with enqueued := s.queue.stats.enqueued + 1 } }
    s.acceptJob r b row cls origin count =
      (({ s with queue := q }).modContext r b fun c =>
        { c with entries := c.entries.map fun (e : Entry) => if e.row = row then { e with mark := true } else e }).restage

/-- A promotion makes the NORMAL job URGENT and moves it directly behind the last URGENT job; every other field of it and
every other job keep as they are, and the staged slot is re-evaluated (R62, R63). -/
def Obligations.PromotionMovesBehindUrgent : Prop :=
  ∀ (s : State) (r : Rank) (b : Bank) (row : Nat) (urgents before behind : List Job) (j : Job),
    s.queue.list = urgents ++ before ++ j :: behind → (∀ x ∈ urgents, x.cls = .urgent) →
    (∀ x ∈ before ++ j :: behind, x.cls = .normal) → j.names r b row = true →
    (∀ x ∈ before, x.names r b row = false) →
    s.promote r b row =
      ({ s with queue := { s.queue with
        list := urgents ++ { j with cls := .urgent } :: (before ++ behind) } }).restage

/-- Re-evaluation: with no eligible job every listed job is WAITING; otherwise the first eligible job is STAGED with its
victim list and the others are WAITING, unless its list is computed empty: then it retires EMPTY and the re-evaluation begins
again. The EMPTY retirement raises EMPTY, pushes its record, resets the entry and clears the queue-full flag when there is
room (R59, R65, R66, R67, R91, R17). -/
def Obligations.ReevaluationStagesOrRetires : Prop :=
  ∀ s : State,
    ((∀ x ∈ s.queue.list, ¬ s.RankServes x) →
      s.restage = { s with queue := { s.queue with list := s.queue.list.map fun x => { x with state := .waiting } } }) ∧
    ∀ before j behind, s.queue.list = before ++ j :: behind → (∀ x ∈ before, ¬ s.RankServes x) → s.RankServes j →
      (∀ l, j.victims = some l ∨ (j.victims = none ∧ s.victimsFor j = l ∧ l ≠ []) →
        s.restage = { s with queue := { s.queue with
          list := (before.map fun x => { x with state := .waiting }) ++
            { j with state := .staged, victims := some l } :: behind.map fun x => { x with state := .waiting } } }) ∧
      (j.victims = none → s.victimsFor j = [] →
        s.restage = (s.retireEmpty before j behind).restage ∧
        s.retireEmpty before j behind =
          ({ s with
            queue := { s.queue with
              list := before ++ behind
              full := s.queue.full && decide (16 ≤ (before ++ behind).length + (if s.active.isSome then 1 else 0))
              stats := { s.queue.stats with empty := s.queue.stats.empty + 1 } }
            engine := { s.engine with
              newest := some { kind := .empty, windowKind := none, rank := j.rank, job := some j.number, served := 0, listed := 0 }
              previous := s.engine.newest } }).modContext j.rank j.bank fun c => c.entryReset j.row)

/-- After any re-evaluation the staged slot holds the first listed job whose rank is AWAKE or in SERVICE, and every other
listed job is WAITING (R66). -/
def Obligations.StagedSlotHoldsFirstEligible : Prop :=
  ∀ s : State,
    ((∀ x ∈ s.restage.queue.list, ¬ s.restage.RankServes x) → ∀ x ∈ s.restage.queue.list, x.state = .waiting) ∧
    ∀ before j behind, s.restage.queue.list = before ++ j :: behind → (∀ x ∈ before, ¬ s.restage.RankServes x) →
      s.restage.RankServes j →
      j.state = .staged ∧ j.victims.isSome = true ∧ (∀ x ∈ before ++ behind, x.state = .waiting)

/-- A take chooses the first listed job of the rank, makes it RUNNING with its victim list, and retires EMPTY the jobs whose
list is computed empty on the way; a conversion stops at a job that is not URGENT (R69, R81, R82). -/
def Obligations.TakeChoosesFirstJobOfRank : Prop :=
  ∀ (s : State) (r : Rank) (urgentOnly : Bool),
    ((∀ x ∈ s.queue.list, x.rank ≠ r) → s.take r urgentOnly = (s, none)) ∧
    ∀ before j behind, s.FirstOfRank r before j behind →
      (urgentOnly = true → j.cls = .normal → s.take r urgentOnly = (s, none)) ∧
      (urgentOnly = false ∨ j.cls = .urgent →
        (∀ l, j.victims = some l ∨ (j.victims = none ∧ s.victimsFor j = l ∧ l ≠ []) →
          s.take r urgentOnly =
            ({ s with queue := { s.queue with list := before ++ behind } }, some (j.taken l))) ∧
        (j.victims = none → s.victimsFor j = [] →
          s.take r urgentOnly = (s.retireEmpty before j behind).take r urgentOnly))

/-! ### Refresh -/

/-- A REFRESH that meets no conversion, or whose conversion finds only jobs that retire EMPTY, is forwarded and counted
(R101, R102, R103 b, R104; that the re-evaluation after such retirements comes before the count and its close is log 15; log 22 as above). -/
def Obligations.RefreshForwardedAndCounted : Prop :=
  ∀ (s : State) (f : FirstBeat) (b : SecondBeat),
    let r := f.rank
    let converts : Prop := s.engine.window = none ∧
      (∃ before j behind, s.FirstOfRank r before j behind ∧ j.cls = .urgent) ∧
      (s.rank r).debt < (s.params r).debtLimit
    let counted (t : State) : State :=
      t.modRank r fun u => ({ u with port := u.forwarding s.clock.slot f b }).refreshCounted
    s.Completes opRefresh f b → (s.rank r).state = .awake → (∀ k, s.isOpen r k = false) →
    (¬ converts → exec (.refresh b) s = .next (counted s.consumed)) ∧
    (∀ t, converts → s.consumed.take r true = (t, none) → exec (.refresh b) s = .next (counted t.restage))

/-- A REFRESH of an AWAKE rank with every bank closed, with the engine IDLE, the rank's first job URGENT and the debt below its
limit, is converted when the take finds a job with a victim to serve: that job runs in a CONVERTED window, debt and CONVERTED are
raised, the REFRESH is counted and not forwarded, and the first step begins after the count. The first clause is the take of the
first job; the second that of any take, also behind jobs that retired EMPTY (R82, R83, R84 a, R102, R103 a, R104; that the
re-evaluation comes before debt, count and first OPEN is log 15). -/
def Obligations.RefreshConvertedIntoWindow : Prop :=
  ∀ (s : State) (f : FirstBeat) (b : SecondBeat),
    let r := f.rank
    let window (j : Job) : Window := s.freshWindow r .converted (.job j) (s.params r).refreshLen
    let recorded (t : State) (j : Job) : State :=
      let u := ({ t.modRank r (fun u => { u with state := .service }) with
        engine := { t.engine with window := some (window j) } }).restage
      { u with queue := { u.queue with stats := { u.queue.stats with converted := u.queue.stats.converted + 1 } } }
    let converted (t : State) (j : Job) (v : Nat) : State :=
      ((recorded t j).modRank r fun u => ({ u with debt := u.debt + 1 }).refreshCounted).openStep s.clock.slot (window j) j v
    s.Completes opRefresh f b → (s.rank r).state = .awake → (∀ k, s.isOpen r k = false) →
    s.engine.window = none → (s.rank r).debt < (s.params r).debtLimit →
    0 < (s.params r).stepTime → (s.params r).stepTime ≤ (s.params r).refreshLen →
    (∀ before j behind l v, s.FirstOfRank r before j behind → j.cls = .urgent → s.VictimsAre j l → l[j.served]? = some v →
      exec (.refresh b) s =
        .next (converted { s.consumed with queue := { s.queue with list := before ++ behind } } (j.taken l) v)) ∧
    (∀ t j l v, s.consumed.take r true = (t, some j) → j.victims = some l → l[j.served]? = some v →
      exec (.refresh b) s = .next (converted t j v))

/-! ### Sleep -/

/-- An accepted SLEEP ENTER puts the rank ASLEEP, starts its coverage timer at 0, is forwarded, and the staged slot is
re-evaluated; tables, jobs, counts and debt are kept. An accepted SLEEP EXIT is short when the residency is not above
COVER_TIME: the rank is AWAKE and everything of it kept. Above, it is covered: the rank's jobs retire COVERED, its tables are
cleared, its debt and refresh count are 0 (R21, R68, R71, R112, R121, R146, R148, R149; log 22 as above). -/
def Obligations.SleepEnterAndExit : Prop :=
  (∀ (s : State) (f : FirstBeat) (b : SecondBeat),
    s.Completes opSleepEnter f b → (s.rank f.rank).state = .awake → (∀ k, s.isOpen f.rank k = false) →
    exec (.sleepEnter b) s =
      .next (s.consumed.modRank f.rank fun u => { u with
        state := .asleep, coverage := .running 0
        port := u.forwarding s.clock.slot f b }).restage) ∧
  (∀ (s : State) (f : FirstBeat) (b : SecondBeat) (k : Nat),
    let r := f.rank
    let tallied : Stats := { s.queue.stats with covered := s.queue.stats.covered + s.listedOf r }
    s.Completes opSleepExit f b → (s.rank r).state = .asleep → (s.rank r).coverage = .running k →
    (k ≤ (s.params r).coverTime →
      exec (.sleepExit b) s =
        .next (s.consumed.modRank r fun u => { u with
          state := .awake, coverage := .stopped
          port := u.forwarding s.clock.slot f b }).restage) ∧
    ((s.params r).coverTime < k →
      exec (.sleepExit b) s =
        .next (({ s.consumed with queue := s.queueWithout r tallied }).modRank r fun u => { u with
          state := .awake, coverage := .stopped, debt := 0, refreshCount := 0
          contexts := Vector.replicate 16 BankContext.empty
          port := u.forwarding s.clock.slot f b }).restage))

/-! ### Service windows -/

/-- A grant to an AWAKE rank with every bank closed and the engine IDLE is consumed and runs the job of its take, with a victim
still to serve, in a GRANTED window, which begins its first step. The first clause is the take of the first job; the second that
of any take, also behind jobs that retired EMPTY (R69, R81, R83, R84 a; that the re-evaluation comes before the first OPEN is
log 15). -/
def Obligations.GrantStartsJobWindow : Prop :=
  ∀ (s : State) (f : FirstBeat) (b : SecondBeat),
    let r := f.rank
    let window (j : Job) : Window := s.freshWindow r .granted (.job j) (s.params r).grantLen
    let started (t : State) (j : Job) (v : Nat) : State :=
      ({ t.modRank r (fun u => { u with state := .service }) with
        engine := { t.engine with window := some (window j) } }).restage.openStep s.clock.slot (window j) j v
    s.Completes opServiceGrant f b → (s.rank r).state = .awake → (∀ k, s.isOpen r k = false) → s.engine.window = none →
    0 < (s.params r).stepTime → (s.params r).stepTime ≤ (s.params r).grantLen →
    (∀ before j behind l v, s.FirstOfRank r before j behind → s.VictimsAre j l → l[j.served]? = some v →
      exec (.serviceGrant b) s =
        .next (started { s.consumed with queue := { s.queue with list := before ++ behind } } (j.taken l) v)) ∧
    (∀ t j l v, s.consumed.take r false = (t, some j) → j.victims = some l → l[j.served]? = some v →
      exec (.serviceGrant b) s = .next (started t j v))

/-- A grant that finds no job of its rank, none being listed or every one having retired EMPTY at the take, starts a REPAY
window, with one REFRESH driven on the port, when the rank owes debt and GRANT_LEN is at least REFRESH_LEN, and a VACANT window
that drives nothing otherwise (R81, R87, R88, R107, R108; that the re-evaluation comes before the REFRESH is log 15). -/
def Obligations.GrantWithoutJobRepaysOrIsVacant : Prop :=
  ∀ (s : State) (f : FirstBeat) (b : SecondBeat),
    let r := f.rank
    let repays := 0 < (s.rank r).debt ∧ (s.params r).refreshLen ≤ (s.params r).grantLen
    let started (t : State) (purpose : Purpose) (beats : List PortBeat) : State :=
      ({ t.modRank r (fun u => { u with state := .service, port := u.port ++ beats }) with
        engine := { t.engine with window := some (s.freshWindow r .granted purpose (s.params r).grantLen) } }).restage
    let ends (t : State) : Prop :=
      (repays → exec (.serviceGrant b) s =
        .next (started t .repay (engineBeats ((s.rank r).engineSlot s.clock.slot) opRefresh r 0 0))) ∧
      (¬ repays → exec (.serviceGrant b) s = .next (started t .vacant []))
    s.Completes opServiceGrant f b → (s.rank r).state = .awake → (∀ k, s.isOpen r k = false) → s.engine.window = none →
    ((∀ x ∈ s.queue.list, x.rank ≠ r) → ends s.consumed) ∧
    (∀ t, s.consumed.take r false = (t, none) → ends t)

/-- The beginning of a step drives OPEN of the victim on the port, opens the bank, and is a counted activation of the victim.
ENGINE_OPEN begins the next step of a JOB window when none is in progress and one remains to be made: it serves the victim
behind those already served (R84 a, R85, R125, R128 b, R168 c; which slot the instant falls in is the operand, log 5). -/
def Obligations.EngineOpenBeginsNextStep : Prop :=
  (∀ (s : State) (m : Nat) (w : Window) (j : Job) (v : Nat),
    s.openStep m w j v =
      ({ s.modRank w.rank (fun u => { u with
          bankOpen := u.bankOpen.set j.bank.val true j.bank.isLt
          port := u.port ++ engineBeats (u.engineSlot m) opOpen w.rank j.bank (BitVec.ofNat 17 v) }) with
        engine := { s.engine with window := some { w with stepOpen := true } } }).countActivation w.rank j.bank v) ∧
  (∀ (s : State) (early : Bool) (w : Window) (j : Job) (l : List Nat) (v : Nat),
    s.engine.window = some w → w.purpose = .job j → j.victims = some l → w.stepOpen = false →
    w.stepsDone < min (l.length - j.served) w.capacity → l[j.served + w.stepsDone]? = some v →
    exec (.engineOpen early) s =
      .next (({ s with clock := { s.clock with time := max s.clock.time (w.start + w.stepsDone * w.stepTime) } }).openStep
        (if early then s.clock.slot - 1 else s.clock.slot) w j v))

/-- ENGINE_CLOSE ends the step in progress: CLOSE on the port, the bank CLOSED, one more step complete (R84 b and c, R125). -/
def Obligations.EngineCloseCompletesStep : Prop :=
  ∀ (s : State) (early : Bool) (w : Window) (j : Job),
    s.engine.window = some w → w.purpose = .job j → w.stepOpen = true →
    exec (.engineClose early) s =
      .next ({ s.modRank w.rank (fun u => { u with
          bankOpen := u.bankOpen.set j.bank.val false j.bank.isLt
          port := u.port ++ engineBeats (u.engineSlot (if early then s.clock.slot - 1 else s.clock.slot))
            opClose w.rank j.bank 0 }) with
        clock := { s.clock with time := max s.clock.time (w.start + (w.stepsDone + 1) * w.stepTime) }
        engine := { s.engine with window := some { w with stepOpen := false, stepsDone := w.stepsDone + 1 } } })

/-- An engine command takes the first two adjacent slots, from the slot of its instant on, that no beat still on the port takes
and that lie behind the beat last driven (R128 b; log 17). A command accepted at slot n takes slots n+2 and n+3; a command that
has not left before them keeps its word and its place in the order and is put off, each beat to the first slot from its own and
from slot n+4 on that lies behind the one before it; when none stands there, the two beats are placed behind those there were
(R127, R128 a; that an engine command gives way is the model's choice, log 22). -/
def Obligations.PortSlotsAreShared : Prop :=
  (∀ (u : RankUnit) (m : Nat),
    let free (k : Nat) : Prop := m ≤ k ∧ (∀ p, u.portOut = some p → p.slot < k) ∧
      ∀ p ∈ u.port, p.slot ≠ k ∧ p.slot ≠ k + 1
    free (u.engineSlot m) ∧ ∀ k, free k → u.engineSlot m ≤ k) ∧
  ∀ (u : RankUnit) (n : Nat) (f : FirstBeat) (b : SecondBeat),
    let left (p : PortBeat) : Prop := p.slot ≤ n ∨ (p.slot = n + 1 ∧ p.word.toNat / 2 ^ 18 % 2 = 0)
    ((∀ p ∈ u.port, left p) → u.forwarding n f b = u.port ++ forwardedBeats n f b) ∧
    ∃ ahead late moved : List PortBeat,
      u.forwarding n f b = ahead ++ forwardedBeats n f b ++ moved ∧
      (ahead ++ late).Perm u.port ∧ ahead.Sublist u.port ∧ late.Sublist u.port ∧
      (∀ p ∈ ahead, left p) ∧ (∀ p ∈ late, ¬ left p) ∧
      moved.length = late.length ∧
      (∀ p, late[0]? = some p → moved[0]? = some { p with slot := max p.slot (n + 4) }) ∧
      ∀ i p x, late[i + 1]? = some p → moved[i]? = some x → moved[i + 1]? = some { p with slot := max p.slot (x.slot + 1) }

/-- At the expiry of a JOB window the rank is AWAKE, the engine IDLE, the record pushed and the staged slot re-evaluated. With
every victim served the job retires DONE: DONE raised, its entry reset, room in the queue. With victims unserved it returns to
the head of the list, URGENT and WAITING, served and partial windows raised, and PARTIAL is raised
(R17, R59, R64, R70, R89, R90, R91). -/
def Obligations.WindowExpiryDoneOrPartial : Prop :=
  ∀ (s : State) (w : Window) (j : Job) (l : List Nat),
    let ended (kind : OutcomeKind) (q : Queue) : State := ({ s with
      clock := { s.clock with time := max s.clock.time (w.start + w.length) }
      queue := q
      engine := { window := none
                  newest := some { kind := kind, windowKind := some w.kind, rank := w.rank, job := some j.number
                                   served := w.stepsDone, listed := l.length }
                  previous := s.engine.newest } }).modRank w.rank fun u => { u with state := .awake }
    s.engine.window = some w → w.purpose = .job j → j.victims = some l → w.stepOpen = false →
    min (l.length - j.served) w.capacity ≤ w.stepsDone →
    (j.served + w.stepsDone = l.length →
      exec .windowExpiry s =
        .next ((ended .done { s.queue with
          full := s.queue.full && decide (16 ≤ s.queue.list.length)
          stats := { s.queue.stats with done := s.queue.stats.done + 1 } }).modContext
            j.rank j.bank fun c => c.entryReset j.row).restage) ∧
    (j.served + w.stepsDone ≠ l.length →
      exec .windowExpiry s =
        .next (ended .partialEnd { s.queue with
          list := { j with cls := .urgent, state := .waiting, served := j.served + w.stepsDone
                           partials := min 255 (j.partials + 1) } :: s.queue.list
          stats := { s.queue.stats with partials := s.queue.stats.partials + 1 } }).restage)

/-- At the expiry of a REPAY window debt falls by one and REPAID is raised; at that of a VACANT window VACANT is raised; in both
the record without a job is pushed, the rank is AWAKE and the engine IDLE (R89, R90, R91, R107). -/
def Obligations.WindowExpiryWithoutJob : Prop :=
  ∀ (s : State) (w : Window),
    let ended (kind : OutcomeKind) (stats : Stats) (paid : Nat) : State :=
      (({ s with
          clock := { s.clock with time := max s.clock.time (w.start + w.length) }
          queue := { s.queue with stats := stats }
          engine := { window := none
                      newest := some { kind := kind, windowKind := some w.kind, rank := w.rank, job := none
                                       served := 0, listed := 0 }
                      previous := s.engine.newest } }).modRank w.rank fun u =>
        { u with state := .awake, debt := u.debt - paid }).restage
    s.engine.window = some w → w.stepOpen = false →
    (w.purpose = .repay →
      exec .windowExpiry s = .next (ended .repaid { s.queue.stats with repaid := s.queue.stats.repaid + 1 } 1)) ∧
    (w.purpose = .vacant →
      exec .windowExpiry s = .next (ended .vacant { s.queue.stats with vacant := s.queue.stats.vacant + 1 } 0))

/-- An event of the part itself that is not due changes nothing (the model's choice, log 8): a step or an expiry without its
window or out of turn, a staleness expiry before its time, a beat or a pulse before its slot. -/
def Obligations.EventsNotDueChangeNothing : Prop :=
  ∀ (s : State) (early : Bool) (r : Rank),
    (s.engine.window = none →
      exec (.engineOpen early) s = .next s ∧ exec (.engineClose early) s = .next s ∧ exec .windowExpiry s = .next s) ∧
    (∀ w, s.engine.window = some w →
      (w.stepOpen = true → exec (.engineOpen early) s = .next s ∧ exec .windowExpiry s = .next s) ∧
      (w.stepOpen = false → exec (.engineClose early) s = .next s) ∧
      (w.purpose = .vacant ∨ w.purpose = .repay →
        exec (.engineOpen early) s = .next s ∧ exec (.engineClose early) s = .next s) ∧
      (∀ j l, w.purpose = .job j → j.victims = some l →
        (min (l.length - j.served) w.capacity ≤ w.stepsDone → exec (.engineOpen early) s = .next s) ∧
        (w.stepsDone < min (l.length - j.served) w.capacity → exec .windowExpiry s = .next s))) ∧
    ((s.bands.timer = .stopped ∨ ∃ p m, s.bands.timer = .running p m ∧ m < p) → exec .stalenessExpiry s = .next s) ∧
    (((s.rank r).port = [] ∨ ∃ p rest, (s.rank r).port = p :: rest ∧ s.clock.slot < p.slot) →
      exec (.portEmit r) s = .next s) ∧
    ((s.refusals.schedule = [] ∨ ∃ n rest, s.refusals.schedule = n :: rest ∧ s.clock.slot < n) →
      exec .alertPulse s = .next s)

/-- SREQr/ is asserted exactly while rank r is not in SERVICE and the staged slot holds a job of rank r, or rank r is AWAKE
and owes debt (R92). In a legal state it is deasserted while rank r is ASLEEP or in RESET HOLD. -/
def Obligations.ServiceRequestLevels : Prop :=
  ∀ (s : State) (r : Rank),
    (s.serviceRequest r = true ↔
      (s.rank r).state ≠ .service ∧
        ((∃ j, s.staged = some j ∧ j.rank = r) ∨ ((s.rank r).state = .awake ∧ 0 < (s.rank r).debt))) ∧
    (s.StagedLegal → (s.rank r).state = .asleep ∨ (s.rank r).state = .resetHold → s.serviceRequest r = false)

/-! ### Output pins -/

/-- The next beat of a port leaves at its slot and stands on the pins in that slot alone; the next pulse drives ALERT/ low in
its slot alone; nothing else changes (R127, R134, R168 b; the pins kept in State are log 14). -/
def Obligations.BeatsAndPulsesLeave : Prop :=
  (∀ (s : State) (r : Rank) (p : PortBeat) (rest : List PortBeat),
    (s.rank r).port = p :: rest → p.slot ≤ s.clock.slot →
    let t := s.modRank r fun u => { u with port := rest, portOut := some p }
    exec (.portEmit r) s = .next t ∧ ∀ n, t.portWord r n = if n = p.slot then p.word else 0) ∧
  (∀ (s : State) (n : Nat) (rest : List Nat),
    s.refusals.schedule = n :: rest → n ≤ s.clock.slot →
    let t := { s with refusals := { s.refusals with schedule := rest, alert := some n } }
    exec .alertPulse s = .next t ∧ ∀ m, (t.alertLow m = true ↔ m = n))

/-! ### RESET/ and RESTART -/

/-- RESET/ falling: nothing held, both ranks in RESET HOLD with timers STOPPED, counts and debts 0, tables empty, banks CLOSED
and ports IDLE; every held job DISCARDED; a window in progress aborted with its record; parameters, repairs, bands, the job
number, the other counters and the refusal unit kept. RESET/ rising: both ranks AWAKE, the link in NONE, the staged slot
re-evaluated. An edge to the level the line already has changes nothing. P0RST/ and P1RST/ are low exactly while RESET/ is
(R22, R68 d, R72, R79, R95, R112, R116, R126, R129, R141, R144, R145; log 10). -/
def Obligations.ResetLineActs : Prop :=
  (∀ s : State, s.link.resetHigh = true →
    let fallen (engine : Engine) (held : Nat) : State := { s with
      link := { held := none, resetHigh := false }
      ranks := s.ranks.map fun u => { u with
        state := .resetHold, coverage := .stopped, refreshCount := 0, debt := 0
        contexts := Vector.replicate 16 BankContext.empty, bankOpen := Vector.replicate 16 false, port := [], portOut := none }
      queue := { s.queue with
        list := [], full := false
        stats := { s.queue.stats with discarded := s.queue.stats.discarded + BitVec.ofNat 32 held } }
      engine := engine }
    let aborted (w : Window) (job : Option (BitVec 8)) (served listed : Nat) : Engine :=
      { window := none
        newest := some { kind := .aborted, windowKind := some w.kind, rank := w.rank, job := job, served := served, listed := listed }
        previous := s.engine.newest }
    (s.engine.window = none → exec .resetFalling s = .next (fallen s.engine s.queue.list.length)) ∧
    (∀ w j l, s.engine.window = some w → w.purpose = .job j → j.victims = some l →
      exec .resetFalling s =
        .next (fallen (aborted w (some j.number) w.stepsDone l.length) (s.queue.list.length + 1))) ∧
    (∀ w, s.engine.window = some w → w.purpose = .vacant ∨ w.purpose = .repay →
      exec .resetFalling s = .next (fallen (aborted w none 0 0) s.queue.list.length))) ∧
  (∀ s : State,
    (s.link.resetHigh = false →
      exec .resetRising s = .next ({ s with
        link := { held := none, resetHigh := true }
        ranks := s.ranks.map fun u => { u with state := .awake } }).restage) ∧
    (s.link.resetHigh = true → exec .resetRising s = .next s) ∧
    (s.link.resetHigh = false → exec .resetFalling s = .next s)) ∧
  (∀ (s : State) (r : Rank), s.rankResetLow r = true ↔ s.link.resetHigh = false)

/-- RESTART takes every block to its power-on values but for the level of RESET/, the slots and the time base, the beats on the
ports, the pulse schedule, the address, the transaction on the bus and the pins; a step in progress first drives its CLOSE; OK
stands in the buffer (R96, R129, R134, R141, R153, R165, R166; log 5 for the slot of its instant, log 1 and log 21 for what
waits). -/
def Obligations.RestartReturnsToPowerOn : Prop :=
  ∀ (s : State) (early : Bool),
    let zero : State := { State.powerOn s.pending s.link.resetHigh 0 with wire := s.wire }
    let after (extra : Rank → List PortBeat) : State :=
      { zero with
        clock := s.clock
        ranks := ⟨{ zero.ranks.rank0 with port := (s.rank 0).port ++ extra 0, portOut := (s.rank 0).portOut },
                  { zero.ranks.rank1 with port := (s.rank 1).port ++ extra 1, portOut := (s.rank 1).portOut }⟩
        refusals := { schedule := s.refusals.schedule, alert := s.refusals.alert, sequence := 0, log := [], overflow := 0
                      distance := 6 }
        mgmt := { s.mgmt with request := none, response := some { code := .ok, body := [], position := 0 } } }
    ((∀ w, s.engine.window = some w → w.stepOpen = true → w.purpose = .vacant ∨ w.purpose = .repay) →
      exec (.restart early) s = .next (after fun _ => [])) ∧
    (∀ w j, s.engine.window = some w → w.stepOpen = true → w.purpose = .job j →
      exec (.restart early) s = .next (after fun r => if r = w.rank then
        engineBeats ((s.rank r).engineSlot (if early then s.clock.slot - 1 else s.clock.slot)) opClose w.rank j.bank 0
      else []))

/-! ### Management requests: operands and parameters -/

/-- Every request that carries a rank, a bank or a class checks them before any other condition and answers RANGE, changing
nothing else; READ TABLE and READ REPAIR are answered OK otherwise; the rank byte of a device parameter's read or write is not
looked at (R157, R158, R169). -/
def Obligations.OperandsCheckedFirst : Prop :=
  ∀ (s : State) (rank rank' bank cls spare identifier : Byte) (row value : BitVec 24),
    (2 ≤ rank.toNat →
      (∀ c ∈ ([.trackWrite rank value, .rowsWrite rank value, .sectionWrite rank value, .maskWrite rank value,
          .radiusWrite rank value, .tServiceWrite rank value, .tUrgentWrite rank value, .tCeilingWrite rank value,
          .windowRefreshesWrite rank value, .debtLimitWrite rank value, .grantLenWrite rank value,
          .refreshLenWrite rank value, .stepTimeWrite rank value, .coverTimeWrite rank value, .readTable rank bank,
          .injectJob rank bank row cls, .clearRank rank, .writeRepair rank bank row spare, .eraseRepair rank bank row,
          .readRepair rank] : List Instr), exec c s = .next (s.reply .range)) ∧
      (identifier.toNat ≤ 13 → exec (.readParameter identifier rank) s = .next (s.reply .range))) ∧
    (16 ≤ bank.toNat →
      exec (.readTable rank bank) s = .next (s.reply .range) ∧
      exec (.injectJob rank bank row cls) s = .next (s.reply .range)) ∧
    (17 ≤ bank.toNat →
      exec (.writeRepair rank bank row spare) s = .next (s.reply .range) ∧
      exec (.eraseRepair rank bank row) s = .next (s.reply .range)) ∧
    (2 ≤ cls.toNat → exec (.injectJob rank bank row cls) s = .next (s.reply .range)) ∧
    (rank.toNat < 2 →
      (bank.toNat < 16 → ∃ body, exec (.readTable rank bank) s = .next (s.respond .ok body)) ∧
      (∃ body, exec (.readRepair rank) s = .next (s.respond .ok body))) ∧
    (identifier.toNat = 14 ∨ identifier.toNat = 15 → ∃ body, exec (.readParameter identifier rank) s = .next (s.respond .ok body)) ∧
    exec (.stalePeriodWrite rank value) s = exec (.stalePeriodWrite rank' value) s ∧
    exec (.refusalDistanceWrite rank value) s = exec (.refusalDistanceWrite rank' value) s

/-- A geometry write is answered STATE with TRACK ON; otherwise it is stored with OK when the value is one of the parameter's
(for ROWS also above MASK and every repaired row) and answered RANGE when it is not, changing nothing (R38, R39). -/
def Obligations.GeometryWritesDecided : Prop :=
  ∀ (s : State) (r : Rank) (rank : Byte) (value : BitVec 24), rank.toNat = r.val →
    let p := s.params r
    let v := value.toNat
    let stored (p' : RankParams) : State := (s.modRank r fun u => { u with params := p' }).reply .ok
    (p.track = true → ∀ c ∈ ([.rowsWrite rank value, .sectionWrite rank value, .maskWrite rank value,
      .radiusWrite rank value] : List Instr), exec c s = .next (s.reply .state)) ∧
    (p.track = false →
      exec (.rowsWrite rank value) s = .next (
        if (v = 32768 ∨ v = 65536 ∨ v = 131072) ∧ p.mask < v ∧ ∀ x ∈ (s.rank r).repairs, x.row < v then
          stored { p with rows := v } else s.reply .range) ∧
      exec (.sectionWrite rank value) s = .next (
        if v = 512 ∨ v = 1024 ∨ v = 2048 then stored { p with section_ := v } else s.reply .range) ∧
      exec (.maskWrite rank value) s = .next (if v < p.rows then stored { p with mask := v } else s.reply .range) ∧
      exec (.radiusWrite rank value) s = .next (if v = 1 ∨ v = 2 then stored { p with radius := v } else s.reply .range))

/-- A threshold write is stored with OK when the value lies in the parameter's range and keeps the strict order with the
rank's other two thresholds, and answered RANGE otherwise, changing nothing, in every state of the part (R25, R26). -/
def Obligations.ThresholdWritesDecided : Prop :=
  ∀ (s : State) (r : Rank) (rank : Byte) (value : BitVec 24), rank.toNat = r.val →
    let p := s.params r
    let v := value.toNat
    let stored (p' : RankParams) : State := (s.modRank r fun u => { u with params := p' }).reply .ok
    exec (.tServiceWrite rank value) s = .next (
      if 64 ≤ v ∧ v ≤ 2048 ∧ v < p.tUrgent then stored { p with tService := v } else s.reply .range) ∧
    exec (.tUrgentWrite rank value) s = .next (
      if 65 ≤ v ∧ v ≤ 3072 ∧ p.tService < v ∧ v < p.tCeiling then stored { p with tUrgent := v } else s.reply .range) ∧
    exec (.tCeilingWrite rank value) s = .next (
      if 66 ≤ v ∧ v ≤ 4095 ∧ p.tUrgent < v then stored { p with tCeiling := v } else s.reply .range)

/-- A TRACK write of 0 or 1 and a CLEAR RANK are answered BUSY during a window on the rank; otherwise the rank's tables are
cleared, its listed jobs DISCARDED, the staged slot re-evaluated, TRACK written whatever it was, and the answer is OK. A TRACK
value above 1 is answered RANGE (R21, R59, R72, R159, R162, R169). -/
def Obligations.TrackWriteAndClearRank : Prop :=
  ∀ (s : State) (r : Rank) (rank : Byte) (value : BitVec 24), rank.toNat = r.val →
    let tallied : Stats := { s.queue.stats with discarded := s.queue.stats.discarded + s.listedOf r }
    let cleared (track : Bool) : State :=
      (({ s with queue := s.queueWithout r tallied }).modRank r fun u => { u with
        params := { u.params with track := track }, contexts := Vector.replicate 16 BankContext.empty }).restage
    let busy : Prop := ∃ w, s.engine.window = some w ∧ w.rank = r
    (2 ≤ value.toNat → exec (.trackWrite rank value) s = .next (s.reply .range)) ∧
    (busy → (value.toNat ≤ 1 → exec (.trackWrite rank value) s = .next (s.reply .busy)) ∧
      exec (.clearRank rank) s = .next (s.reply .busy)) ∧
    (¬ busy →
      (value.toNat = 0 → exec (.trackWrite rank value) s = .next ((cleared false).reply .ok)) ∧
      (value.toNat = 1 → exec (.trackWrite rank value) s = .next ((cleared true).reply .ok)) ∧
      exec (.clearRank rank) s = .next ((cleared (s.params r).track).reply .ok))

/-- The writes of WINDOW_REFRESHES (which restarts the refresh count), DEBT_LIMIT (STATE below the debt), the two window
lengths and the step time (no length below the step), and COVER_TIME, each decided by its own rule in every state of the part
(R105, R109, R150, R160). -/
def Obligations.RefreshAndTimingWritesDecided : Prop :=
  ∀ (s : State) (r : Rank) (rank : Byte) (value : BitVec 24), rank.toNat = r.val →
    let p := s.params r
    let v := value.toNat
    let stored (p' : RankParams) : State := (s.modRank r fun u => { u with params := p' }).reply .ok
    exec (.windowRefreshesWrite rank value) s = .next (
      if v = 1024 ∨ v = 2048 ∨ v = 4096 ∨ v = 8192 ∨ v = 16384 then
        (s.modRank r fun u => { u with params := { p with windowRefreshes := v }, refreshCount := 0 }).reply .ok
      else s.reply .range) ∧
    exec (.debtLimitWrite rank value) s = .next (
      if 4 < v then s.reply .range
      else if v < (s.rank r).debt then s.reply .state
      else stored { p with debtLimit := v }) ∧
    exec (.grantLenWrite rank value) s = .next (
      if 10 ≤ v ∧ v ≤ 1000 ∧ p.stepTime ≤ v then stored { p with grantLen := v } else s.reply .range) ∧
    exec (.refreshLenWrite rank value) s = .next (
      if 10 ≤ v ∧ v ≤ 1000 ∧ p.stepTime ≤ v then stored { p with refreshLen := v } else s.reply .range) ∧
    exec (.stepTimeWrite rank value) s = .next (
      if 4 ≤ v ∧ v ≤ 100 ∧ v ≤ p.grantLen ∧ v ≤ p.refreshLen then stored { p with stepTime := v } else s.reply .range) ∧
    exec (.coverTimeWrite rank value) s = .next (
      if 1 ≤ v ∧ v ≤ 255 then stored { p with coverTime := v } else s.reply .range)

/-- SET BAND writes the band, clears the stale flag and restarts the timer; a STALE_PERIOD write stores the period and starts
the timer with it, STOPPED for 0, and keeps flag and band; a REFUSAL_DISTANCE write stores the distance, keeps the pulses
already scheduled, and places the pulse of the next report. Each is decided in every state of the part; a value out of range is
answered RANGE and changes nothing (R29, R30, R32, R134, R135). -/
def Obligations.DeviceWritesDecided : Prop :=
  ∀ (s : State) (band rank : Byte) (value : BitVec 24),
    let v := value.toNat
    let started (period : Nat) : StaleTimer := if period = 0 then .stopped else .running period 0
    let spaced : State := ({ s with refusals := { s.refusals with distance := v } }).reply .ok
    (∀ k : Fin 4, band.toNat = k.val →
      exec (.setBand band) s = .next (({ s with bands := { s.bands with
        band := k, stale := false, timer := started s.bands.stalePeriod } }).reply .ok)) ∧
    (4 ≤ band.toNat → exec (.setBand band) s = .next (s.reply .range)) ∧
    (v ≤ 255 →
      exec (.stalePeriodWrite rank value) s = .next (({ s with bands := { s.bands with
        stalePeriod := v, timer := started v } }).reply .ok)) ∧
    (256 ≤ v → exec (.stalePeriodWrite rank value) s = .next (s.reply .range)) ∧
    (2 ≤ v ∧ v ≤ 15 →
      exec (.refusalDistanceWrite rank value) s = .next spaced ∧
      ∀ (n : Nat) (x : Report),
        (s.refusals.schedule = [] → (spaced.report n x).refusals.schedule = [n + v]) ∧
        (∀ before latest, s.refusals.schedule = before ++ [latest] →
          (spaced.report n x).refusals.schedule = before ++ [latest, max (n + v) (latest + 1)])) ∧
    (v < 2 ∨ 15 < v → exec (.refusalDistanceWrite rank value) s = .next (s.reply .range))

/-- READ PARAMETER answers the identifier, the rank byte as received and the value in three bytes, most significant first; an
identifier above 0FH is answered RANGE, in a read and in a write, and changes nothing (R158, R170). -/
def Obligations.ReadParameterAnswersValue : Prop :=
  ∀ (s : State) (r : Rank) (identifier rank : Byte) (value : BitVec 24) (v : Nat),
    let p := s.params r
    let values : List Nat :=
      [if p.track then 1 else 0, p.rows, p.section_, p.mask, p.radius, p.tService, p.tUrgent, p.tCeiling,
       p.windowRefreshes, p.debtLimit, p.grantLen, p.refreshLen, p.stepTime, p.coverTime,
       s.bands.stalePeriod, s.refusals.distance]
    (values[identifier.toNat]? = some v → rank.toNat = r.val ∨ 14 ≤ identifier.toNat →
      exec (.readParameter identifier rank) s = .next (s.respond .ok
        [identifier, rank, BitVec.ofNat 8 (v / 2 ^ 16), BitVec.ofNat 8 (v / 2 ^ 8), BitVec.ofNat 8 v])) ∧
    (16 ≤ identifier.toNat →
      exec (.readParameter identifier rank) s = .next (s.reply .range) ∧
      exec (.writeParameterUnknownIdentifier identifier rank value) s = .next (s.reply .range))

/-! ### Management requests: readouts -/

/-- STATUS answers OK with the 22 bytes of the status record and changes nothing else (R24, R36, R77, R90, R98, R111, R140,
R152, R164, R170; the presence byte of the staged summary is log 16). -/
def Obligations.StatusRecordLayout : Prop :=
  ∀ s : State, ∃ body : List Byte, exec .status s = .next (s.respond .ok body) ∧ body.length = 22 ∧
    let at_ (i : Nat) : Byte := body.getD i 0
    let stateBits (u : RankUnit) : Nat := match u.state with
      | .resetHold => 0
      | .awake => 1
      | .service => 2
      | .asleep => 3
    let outcome (o : Option Outcome) : List Byte := match o with
      | none => [0, 0, 0, 0]
      | some o =>
        [BitVec.ofNat 8 (128 + match o.kind with
          | .done => 0
          | .partialEnd => 1
          | .empty => 2
          | .vacant => 3
          | .repaid => 4
          | .aborted => 5),
         BitVec.ofNat 8 ((if o.windowKind = none then 0 else 1) + (if o.windowKind = some .converted then 2 else 0) +
           (if o.job = none then 0 else 4) + 16 * o.rank.val),
         o.job.getD 0,
         BitVec.ofNat 8 (16 * o.served + o.listed)]
    (s.engine.window = none → at_ 0 = 0) ∧
    (∀ w, s.engine.window = some w →
      at_ 0 = BitVec.ofNat 8 (1 + 2 * w.rank.val + (if w.kind = .converted then 4 else 0) + match w.purpose with
        | .job _ => 0
        | .vacant => 8
        | .repay => 16)) ∧
    at_ 1 = BitVec.ofNat 8 (stateBits (s.rank 0) + 4 * stateBits (s.rank 1)) ∧
    ((at_ 2).getLsbD 0 = s.bands.stale ∧
      ((at_ 2).getLsbD 1 = true ↔ s.refusals.log ≠ []) ∧
      ((at_ 2).getLsbD 2 = true ↔ 0 < s.refusals.overflow) ∧
      ((at_ 2).getLsbD 3 = true ↔ ∃ r b, (s.context r b).saturated = true) ∧
      ((at_ 2).getLsbD 4 = true ↔ ∃ r b, ∃ e ∈ (s.context r b).entries, s.ceiling r ≤ e.count) ∧
      (at_ 2).getLsbD 5 = s.queue.full ∧ (at_ 2).getLsbD 6 = false ∧ (at_ 2).getLsbD 7 = false) ∧
    at_ 3 = BitVec.ofNat 8 (s.bands.band.val + 16 * (if s.bands.stale then 3 else s.bands.band.val)) ∧
    at_ 4 = BitVec.ofNat 8 ((s.rank 0).debt + 16 * (s.rank 1).debt) ∧
    at_ 5 = BitVec.ofNat 8 s.queue.list.length ∧
    at_ 6 = BitVec.ofNat 8 (s.queue.list.filter fun j => decide (j.cls = .urgent)).length ∧
    ((∀ j ∈ s.queue.list, j.state ≠ .staged) → (body.drop 7).take 7 = [0, 0, 0, 0, 0, 0, 0]) ∧
    (∀ before j behind, s.queue.list = before ++ j :: behind → (∀ x ∈ before, x.state ≠ .staged) → j.state = .staged →
      (body.drop 7).take 7 =
        [1, j.number, BitVec.ofNat 8 (16 * j.rank.val + j.bank.val), BitVec.ofNat 8 (j.row / 2 ^ 16),
         BitVec.ofNat 8 (j.row / 2 ^ 8), BitVec.ofNat 8 j.row,
         BitVec.ofNat 8 ((if j.cls = .urgent then 128 else 0) + 16 * (j.victims.getD []).length + j.served)]) ∧
    (body.drop 14).take 4 = outcome s.engine.newest ∧ body.drop 18 = outcome s.engine.previous

/-- READ TABLE, READ QUEUE, READ REPAIR and READ STATISTICS answer OK with their layouts, multi-byte fields most significant
byte first, in every state of the part, and change nothing else (R24, R46, R75, R76, R170). -/
def Obligations.ReadoutBodies : Prop :=
  ∀ (s : State) (r : Rank) (b : Bank) (rank bank : Byte), rank.toNat = r.val → bank.toNat = b.val →
    let b1 (n : Nat) : Byte := BitVec.ofNat 8 n
    let b2 (n : Nat) : List Byte := [b1 (n / 2 ^ 8), b1 n]
    let b3 (n : Nat) : List Byte := [b1 (n / 2 ^ 16), b1 (n / 2 ^ 8), b1 n]
    let b4 (n : BitVec 32) : List Byte :=
      [n.extractLsb' 24 8, n.extractLsb' 16 8, n.extractLsb' 8 8, n.extractLsb' 0 8]
    let bit (k : Nat) (v : Bool) : Nat := if v then k else 0
    let c := s.context r b
    let entry (e : Entry) : List Byte :=
      b3 e.row ++ b2 e.count ++ [b1 (bit 1 e.inherited + bit 2 e.mark + bit 4 (decide (s.ceiling r ≤ e.count)))]
    let job (j : Job) : List Byte :=
      let l := j.victims.getD []
      [j.number, b1 (16 * j.rank.val + j.bank.val)] ++ b3 j.row ++
        [b1 (bit 1 (decide (j.cls = .urgent)) + bit 2 (decide (j.origin = .injected)) +
          (match j.state with
            | .waiting => 0
            | .staged => 4
            | .running => 8) + bit 16 j.victims.isSome)] ++
        b2 j.enqueued ++ [b1 l.length, b1 j.served, b1 j.partials] ++
        b3 (l.getD 0 0) ++ b3 (l.getD 1 0) ++ b3 (l.getD 2 0) ++ b3 (l.getD 3 0)
    let repair (x : RepairRecord) : List Byte :=
      [match x.bank with
        | .one k => b1 k.val
        | .all => 0x10#8] ++ b3 x.row ++ [b1 x.spare]
    let st := s.queue.stats
    exec (.readTable rank bank) s = .next (s.respond .ok
      (b2 c.floor ++ b2 c.untracked ++ [b1 (bit 1 c.saturated), b1 c.entries.length] ++ c.entries.flatMap entry)) ∧
    exec .readQueue s = .next (s.respond .ok
      ([b1 s.queue.list.length] ++ s.queue.list.flatMap job ++ match s.active with
        | none => [0]
        | some j => 1 :: job j)) ∧
    exec (.readRepair rank) s = .next (s.respond .ok
      ([b1 (s.rank r).repairs.length] ++ (s.rank r).repairs.flatMap repair)) ∧
    exec .readStatistics s = .next (s.respond .ok
      (b4 st.enqueued ++ b4 st.done ++ b4 st.empty ++ b4 st.covered ++ b4 st.discarded ++ b4 st.partials ++
        b4 st.converted ++ b4 st.repaid ++ b4 st.vacant))

/-! ### Management requests: collections -/

/-- INJECT JOB with a good rank, bank and class: RANGE, STATE, EXISTS, QUEUE FULL and TABLE FULL in that order, changing
nothing else; otherwise the row's unmarked entry is used, or one of count 0 is created, or the replaceable entry of R7 is
replaced with its own count, the job is enqueued INJECTED, and OK gives the job number and whether the job has already retired
EMPTY (R18, R60, R161, R170). -/
def Obligations.InjectJobDecided : Prop :=
  ∀ (s : State) (r : Rank) (b : Bank) (cls : JobClass) (rank bank kind : Byte) (value : BitVec 24),
    rank.toNat = r.val → bank.toNat = b.val → kind.toNat = (if cls = .urgent then 1 else 0) →
    let row := value.toNat
    let c := s.context r b
    let ceiling := s.ceiling r
    let request : Instr := .injectJob rank bank value kind
    let enqueues (c' : BankContext) (count : Nat) : Prop :=
      let t := (s.modContext r b fun _ => c').acceptJob r b row cls .injected count
      let stays : Prop := ∃ j ∈ t.queue.list, j.names r b row = true ∧ j.number = s.queue.nextNumber
      (stays → exec request s = .next (t.respond .ok [s.queue.nextNumber, 0])) ∧
      (¬ stays → exec request s = .next (t.respond .ok [s.queue.nextNumber, 1]))
    let fresh : Prop := ∀ x ∈ c.entries, x.row ≠ row
    ((s.params r).rows ≤ row → exec request s = .next (s.reply .range)) ∧
    (row < (s.params r).rows →
      ((s.params r).track = false → exec request s = .next (s.reply .state)) ∧
      ((s.params r).track = true →
        (∀ e, c.find row = some e →
          (e.mark = true → exec request s = .next (s.reply .exists_)) ∧
          (e.mark = false → 16 ≤ s.heldCount → exec request s = .next (s.reply .queueFull)) ∧
          (e.mark = false → s.heldCount < 16 → enqueues c e.count)) ∧
        (fresh →
          (16 ≤ s.heldCount → exec request s = .next (s.reply .queueFull)) ∧
          (s.heldCount < 16 →
            (c.entries.length < 12 →
              enqueues { c with entries := c.entries ++ [{ row := row, count := 0, inherited := false, mark := false }] } 0) ∧
            (c.entries.length = 12 → (∀ x ∈ c.entries, x.mark = true ∨ ceiling ≤ x.count) →
              exec request s = .next (s.reply .tableFull)) ∧
            (∀ before e behind, c.entries.length = 12 → c.entries = before ++ e :: behind →
              e.mark = false → e.count < ceiling →
              (∀ x ∈ before, x.mark = false → x.count < ceiling → e.count < x.count) →
              (∀ x ∈ behind, x.mark = false → x.count < ceiling → e.count ≤ x.count) →
              enqueues { c with
                entries := before ++ behind ++ [{ row := row, count := e.count, inherited := true, mark := false }]
                floor := e.count } e.count)))))

/-- WRITE REPAIR and ERASE REPAIR with a good rank: RANGE, STATE, then EXISTS and TABLE FULL or EMPTY, changing nothing
else; otherwise the record is appended at the tail or removed, and nothing else of the rank is touched
(R42, R43, R44, R45). -/
def Obligations.RepairRequestsDecided : Prop :=
  ∀ (s : State) (r : Rank) (k : RepairBank) (rank bank spare : Byte) (value : BitVec 24),
    rank.toNat = r.val → bank.toNat = (match k with
      | .one b => b.val
      | .all => 16) →
    let row := value.toNat
    let l := (s.rank r).repairs
    let common (x : RepairRecord) : Prop := match x.bank, k with
      | .one a, .one b => a = b
      | .one _, .all => True
      | .all, .one _ => True
      | .all, .all => True
    let writes : Instr := .writeRepair rank bank value spare
    let erases : Instr := .eraseRepair rank bank value
    (∀ bad : Byte, 17 ≤ bad.toNat →
      exec (.writeRepair rank bad value spare) s = .next (s.reply .range) ∧
      exec (.eraseRepair rank bad value) s = .next (s.reply .range)) ∧
    (64 ≤ spare.toNat ∨ (s.params r).rows ≤ row → exec writes s = .next (s.reply .range)) ∧
    (spare.toNat < 64 → row < (s.params r).rows →
      ((s.params r).track = true → exec writes s = .next (s.reply .state)) ∧
      ((s.params r).track = false →
        ((∃ x ∈ l, common x ∧ (x.row = row ∨ x.spare = spare.toNat)) → exec writes s = .next (s.reply .exists_)) ∧
        ((∀ x ∈ l, common x → x.row ≠ row ∧ x.spare ≠ spare.toNat) →
          (16 ≤ l.length → exec writes s = .next (s.reply .tableFull)) ∧
          (l.length < 16 → exec writes s = .next ((s.modRank r fun u =>
            { u with repairs := u.repairs ++ [{ bank := k, row := row, spare := spare.toNat }] }).reply .ok))))) ∧
    ((s.params r).rows ≤ row → exec erases s = .next (s.reply .range)) ∧
    (row < (s.params r).rows →
      ((s.params r).track = true → exec erases s = .next (s.reply .state)) ∧
      ((s.params r).track = false →
        ((∀ x ∈ l, ¬ (x.bank = k ∧ x.row = row)) → exec erases s = .next (s.reply .empty)) ∧
        (∀ before x behind, l = before ++ x :: behind → x.bank = k → x.row = row →
          (∀ y ∈ before, ¬ (y.bank = k ∧ y.row = row)) →
          exec erases s = .next ((s.modRank r fun u => { u with repairs := before ++ behind }).reply .ok))))

/-- TAKE REFUSAL removes the oldest record and answers OK with the records left, the overflow counter, the next sequence number
and the record, or answers EMPTY with the first three. CLEAR STATISTICS sets ENQUEUED to the number of held jobs, the other
eight counters and the overflow counter to 0. Nothing else changes (R74, R133, R137, R138, R163, R170). -/
def Obligations.RefusalLogAndCounters : Prop :=
  ∀ s : State,
    let b1 (n : Nat) : Byte := BitVec.ofNat 8 n
    let head (left : Nat) : List Byte :=
      [b1 left, b1 s.refusals.overflow, b1 (s.refusals.sequence.toNat / 2 ^ 8), b1 s.refusals.sequence.toNat]
    let reasons : List Reason :=
      [.parity, .framing, .undefined, .asleep, .notAsleep, .window, .engineBusy, .bankOpen, .bankClosed, .rowHold]
    let record (x : LogRecord) : List Byte :=
      let y := x.report
      let operand := match y.operand with
        | some o => o.toNat
        | none => 0
      [b1 (x.sequence.toNat / 2 ^ 8), b1 x.sequence.toNat, b1 (reasons.idxOf y.reason),
       b1 ((if y.source = none then 0 else 1) + (if y.bank = none then 0 else 2) + (if y.operand = none then 0 else 4)),
       match y.source with
        | some (op, r) => b1 (16 * op.toNat + r.val)
        | none => 0,
       match y.bank with
        | some k => b1 k.val
        | none => 0,
       b1 (operand / 2 ^ 16), b1 (operand / 2 ^ 8), b1 operand]
    (s.refusals.log = [] → exec .takeRefusal s = .next (s.respond .empty (head 0))) ∧
    (∀ x rest, s.refusals.log = x :: rest →
      exec .takeRefusal s = .next (({ s with refusals := { s.refusals with log := rest } }).respond .ok
        (head rest.length ++ record x))) ∧
    exec .clearStatistics s = .next (({ s with
      queue := { s.queue with stats := ⟨BitVec.ofNat 32 s.heldCount, 0, 0, 0, 0, 0, 0, 0, 0⟩ }
      refusals := { s.refusals with overflow := 0 } }).reply .ok)

/-- A response fills the buffer with the read position at its start. An undefined code is answered UNKNOWN. A read transaction
returns code and body and then FFH, and FFH alone from an empty buffer, and empties the buffer. An incomplete request leaves
the buffer empty and has no other effect; a write transaction with no data byte changes nothing (R154, R155, R166). -/
def Obligations.ResponseBufferTransactions : Prop :=
  ∀ s : State,
    (∀ code body, s.respond code body =
      { s with mgmt := { s.mgmt with request := none, response := some { code := code, body := body, position := 0 } } }) ∧
    (∀ code, requestOperands code = none → exec (.unknown code) s = .next (s.respond .unknown [])) ∧
    (∀ count, ∃ sent : List Byte, exec (.responseRead count) s =
        .next { s with mgmt := { s.mgmt with mda := sent, response := none } } ∧ sent.length = count ∧
      (s.mgmt.response = none → ∀ x ∈ sent, x = 0xFF#8) ∧
      (∀ code body, s.mgmt.response = some { code := code, body := body, position := 0 } →
        ∃ number : Nat, number ≤ 8 ∧
          [ResponseCode.ok, .busy, .range, .state, .exists_, .queueFull, .tableFull, .empty, .unknown][number]? = some code ∧
          ∀ i, i < count → sent[i]? =
            some (if i = 0 then BitVec.ofNat 8 number else body.getD (i - 1) 0xFF#8))) ∧
    (∀ bytes, requestIncomplete bytes = true → bytes ≠ [] →
      exec (.requestDropped bytes) s = .next { s with mgmt := { s.mgmt with request := none, response := none } }) ∧
    exec (.requestDropped []) s = .next s

/-- The bytes of a request and the request that bytes spell agree: every well-formed request is what its own bytes spell, and
bytes that spell a request are its own; no bytes short of a request spell one, and all the bytes of a defined code do. Each
request's code and operand bytes stand as spec/12, section 12.2 lays them out, most significant byte first (R154 a, b, R158;
`early` is the slot of RESTART's instant, log 5). -/
def Obligations.RequestBytesSpellTheRequest : Prop :=
  (∀ (c : Instr) (bytes : List Byte), c.wellFormed = true → requestBytes c = some bytes →
    requestCommand c.early bytes = some c) ∧
  (∀ (c : Instr) (early : Bool) (bytes : List Byte), requestCommand early bytes = some c →
    requestBytes c = some bytes ∧ c.wellFormed = true) ∧
  (∀ (early : Bool) (bytes : List Byte), requestIncomplete bytes = true → requestCommand early bytes = none) ∧
  (∀ (early : Bool) (code : Byte) (operands : List Byte), requestOperands code = some operands.length →
    ∃ c, requestCommand early (code :: operands) = some c) ∧
  (∀ (rank bank cls spare identifier band : Byte) (value : BitVec 24),
    let b1 (n : Nat) : Byte := BitVec.ofNat 8 n
    let b3 : List Byte := [b1 (value.toNat / 2 ^ 16), b1 (value.toNat / 2 ^ 8), b1 value.toNat]
    let writes : List Instr :=
      [.trackWrite rank value, .rowsWrite rank value, .sectionWrite rank value, .maskWrite rank value,
       .radiusWrite rank value, .tServiceWrite rank value, .tUrgentWrite rank value, .tCeilingWrite rank value,
       .windowRefreshesWrite rank value, .debtLimitWrite rank value, .grantLenWrite rank value,
       .refreshLenWrite rank value, .stepTimeWrite rank value, .coverTimeWrite rank value,
       .stalePeriodWrite rank value, .refusalDistanceWrite rank value]
    (∀ k c, writes[k]? = some c → requestBytes c = some (3 :: b1 k :: rank :: b3)) ∧
    requestBytes (.writeParameterUnknownIdentifier identifier rank value) = some (3 :: identifier :: rank :: b3) ∧
    requestBytes .status = some [1] ∧ requestBytes (.readParameter identifier rank) = some [2, identifier, rank] ∧
    requestBytes (.setBand band) = some [4, band] ∧ requestBytes (.readTable rank bank) = some [5, rank, bank] ∧
    requestBytes .readQueue = some [6] ∧ requestBytes .takeRefusal = some [7] ∧
    requestBytes (.injectJob rank bank value cls) = some ([8, rank, bank] ++ b3 ++ [cls]) ∧
    requestBytes (.clearRank rank) = some [9, rank] ∧
    requestBytes (.writeRepair rank bank value spare) = some ([10, rank, bank] ++ b3 ++ [spare]) ∧
    requestBytes (.eraseRepair rank bank value) = some ([11, rank, bank] ++ b3) ∧
    requestBytes (.readRepair rank) = some [12, rank] ∧ requestBytes .readStatistics = some [13] ∧
    requestBytes .clearStatistics = some [14] ∧ ∀ early, requestBytes (.restart early) = some [15])

/-- The transactions on the bus, from a port with none in progress, are the rows of the table. A write addressed to the part that
carries a whole request, whatever bytes follow it, leaves what the request's row leaves; every byte of the request is
acknowledged and no byte beyond it, and before the last byte the response buffer is empty. A write that ends too soon is
REQUEST_DROPPED, all its bytes acknowledged. A read is RESPONSE_READ of as many bytes as the controller took. A first byte with
another address, the general call 00H among them in a legal state, is not acknowledged, and the part takes no part until the next
start. A transaction ends with a stop or with the start of the next one (R153, R154, R155; `early` is log 5). -/
def Obligations.BusTransactionsAreTheirRows : Prop :=
  ∀ (s : State) (again : Bool), s.mgmt.bus = .free → s.mgmt.ack = false → s.mgmt.request = none →
    (∀ c bytes extra, c.wellFormed = true → requestBytes c = some bytes →
      let sent := sentBytes c.early bytes
      (∃ t, exec c s = .next t ∧
        busRun (s.addressed false ++ sent ++ sentBytes false extra ++ [endCondition again]) s =
          .next (t.afterTransaction again)) ∧
      (∀ k, k ≤ bytes.length → ∃ t, busRun (s.addressed false ++ sent.take k) s = .next t ∧ t.mgmt.ack = true ∧
        (0 < k → k < bytes.length → t.mgmt.response = none)) ∧
      (extra ≠ [] → ∃ t, busRun (s.addressed false ++ sent ++ sentBytes false extra) s = .next t ∧ t.mgmt.ack = false)) ∧
    (∀ bytes early, requestIncomplete bytes = true →
      (∃ t, exec (.requestDropped bytes) s = .next t ∧
        busRun (s.addressed false ++ sentBytes early bytes ++ [endCondition again]) s = .next (t.afterTransaction again)) ∧
      ∃ t, busRun (s.addressed false ++ sentBytes early bytes) s = .next t ∧ t.mgmt.ack = true) ∧
    (∀ (taken : Nat) (last : Bool),
      (∃ t, busRun (s.addressed true) s = .next t ∧ t.mgmt.ack = true) ∧
      ∃ t, exec (.responseRead (taken + 1)) s = .next t ∧
        busRun (s.addressed true ++ List.replicate taken (.read true) ++ [.read last, endCondition again]) s =
          .next (t.afterTransaction again)) ∧
    (∀ (first : Byte) (l : List BusEvent), first.extractLsb' 1 7 ≠ s.mgmt.address → .start ∉ l → .stop ∉ l →
      let released : State := { s with mgmt := { s.mgmt with bus := .released } }
      (∀ early, busRun ([.start, .byte first early] ++ l) s = .next released ∧
        busRun ([.start, .byte first early] ++ l ++ [endCondition again]) s = .next (s.afterTransaction again)) ∧
      released.mgmt.ack = false) ∧
    (s.mgmt.Legal → ∀ first : Byte, first.extractLsb' 1 7 = 0 → first.extractLsb' 1 7 ≠ s.mgmt.address)

/-! ### What holds at every instant -/

/-- The legal states hold the machine after reset and after every power-on. -/
def Obligations.LegalAtReset : Prop :=
  State.reset.Inv ∧ ∀ (waiting : List Instr) (high : Bool) (straps : BitVec 2), (State.powerOn waiting high straps).Inv

/-- Every step from a legal state keeps every parameter within its rule, every repair list without two records covering a
common pair, every refresh count below WINDOW_REFRESHES and every debt at most DEBT_LIMIT; every table at 12 entries at most, no
row in two of them, and every count, floor and untracked-opens field in range; the log at 8 records at most, and the pulses in
rising slots of their own; the management address at 58H to 5BH and a request being received incomplete (R1, R2, R3, R25, R38,
R42, R43, R100, R106, R134, R135, R137, R150, R153, R160, R166). -/
def Obligations.StepKeepsParametersTablesLogAndPortLegal : Prop :=
  ∀ s t : State, s.Inv → step s = .next t →
    t.ParametersLegal ∧ t.TablesLegal ∧ t.refusals.Legal ∧ t.mgmt.Legal

/-- Every step from a legal state keeps a rank in SERVICE exactly while the window is on it, both ranks in RESET HOLD exactly
while RESET/ is low, a coverage timer running exactly while its rank sleeps, the banks of a sleeping or reset rank CLOSED, and
those of a window's rank CLOSED but for the step in progress, and at most one beat in each slot of a port. A step from a state in which a rank is ASLEEP or in RESET HOLD
places nothing on its port but the two beats of a SLEEP EXIT for it: otherwise the beats still to leave are those there were,
less some that went first (R80, R84, R116, R125, R128, R142, R143, R147, R148; log 22 as above). -/
def Obligations.StepKeepsRanksLegal : Prop :=
  ∀ s t : State, s.Inv → step s = .next t →
    t.RanksLegal ∧ t.PortsLegal ∧ (∀ w, t.engine.window = some w → w.Legal) ∧
    ∀ r, (s.rank r).state = .asleep ∨ (s.rank r).state = .resetHold →
      (∃ gone, (s.rank r).port = gone ++ (t.rank r).port) ∨
      ∃ f b, s.link.held = some f ∧ f.opcode = opSleepExit ∧ f.rank = r ∧ (s.rank r).state = .asleep ∧
        (t.rank r).port = (s.rank r).forwarding s.clock.slot f b

/-- Every step from a legal state keeps at most 16 held jobs, no two of the same rank, bank and row, the URGENT jobs before
the NORMAL ones, the staged slot at the first eligible job, the queue-full flag clear while there is room, no victim list longer
than twice RADIUS of its rank, the job marks exactly on the entries that held jobs name, and the balance of the statistics
(R16, R52, R57, R59, R61, R62, R66, R74). -/
def Obligations.StepKeepsQueueMarksAndBalance : Prop :=
  ∀ s t : State, s.Inv → step s = .next t →
    t.HeldLegal ∧ t.ListLegal ∧ t.StagedLegal ∧ t.FullLegal ∧ t.ListsFitRadius ∧ t.MarksMatchJobs ∧ t.Balanced

/-- The legal states are closed under every step: whatever command or bus event comes next, in whatever order, what the rules
say of the part at every instant goes on holding. -/
def Obligations.EveryStepKeepsLegal : Prop :=
  ∀ s t : State, s.Inv → step s = .next t → t.Inv
end

