-- ==== Sys2Proof/Laws/Lists.lean ====
section
/-! SUPPORT. What the list operations of Machine/Ops.lean do: splitting at the first element that satisfies a test, the least
count, and the places of jobs in the ordered list. -/

namespace Sys2Proof.Machine

open Sys2Proof

/-! ### splitFirst -/

/-- The split fails exactly when no element passes. -/
theorem splitFirst_eq_none {α : Type} {p : α → Bool} {l : List α} :
    splitFirst p l = none ↔ ∀ x ∈ l, p x = false := by
  induction l with
  | nil => simp [splitFirst]
  | cons a l ih =>
    unfold splitFirst
    by_cases h : p a
    · simp [h]
    · rcases hs : splitFirst p l with _ | ⟨b, y, c⟩
      · simpa [h] using ih.mp hs
      · have : ¬ ∀ x ∈ l, p x = false := fun hl => by simp [ih.mpr hl] at hs
        simpa [h] using this

/-- What a split says: the list, the test on the element found, and its failure on what stands before. -/
theorem splitFirst_spec {α : Type} {p : α → Bool} {l before behind : List α} {x : α}
    (h : splitFirst p l = some (before, x, behind)) :
    l = before ++ x :: behind ∧ p x = true ∧ ∀ y ∈ before, p y = false := by
  induction l generalizing before with
  | nil => simp [splitFirst] at h
  | cons a l ih =>
    unfold splitFirst at h
    by_cases ha : p a
    · simp only [ha, if_true, Option.some.injEq, Prod.mk.injEq] at h
      obtain ⟨rfl, rfl, rfl⟩ := h
      simp [ha]
    · rcases hs : splitFirst p l with _ | ⟨b, y, c⟩
      · simp [ha, hs] at h
      · simp only [ha, hs, Bool.false_eq_true, if_false, Option.some.injEq, Prod.mk.injEq] at h
        obtain ⟨rfl, rfl, rfl⟩ := h
        obtain ⟨h1, h2, h3⟩ := ih hs
        refine ⟨by simp [h1], h2, ?_⟩
        intro z hz
        rcases List.mem_cons.mp hz with rfl | hz
        · simpa using ha
        · exact h3 z hz

/-- The split of a list written around its first passing element. -/
theorem splitFirst_append {α : Type} {p : α → Bool} {before : List α} (x : α) (behind : List α)
    (hb : ∀ y ∈ before, p y = false) (hx : p x = true) :
    splitFirst p (before ++ x :: behind) = some (before, x, behind) := by
  induction before with
  | nil => simp [splitFirst, hx]
  | cons a l ih =>
    have ha := hb a (by simp)
    have hl := ih fun y hy => hb y (by simp [hy])
    simp only [List.cons_append]
    unfold splitFirst
    simp only [ha, hl, Bool.false_eq_true, if_false]

/-! ### leastCount -/

/-- There is a least count exactly when there is an entry. -/
theorem leastCount_eq_none {l : List Entry} : leastCount l = none ↔ l = [] := by
  cases l with
  | nil => simp [leastCount]
  | cons e es =>
    simp only [leastCount, reduceCtorEq, iff_false]
    rcases leastCount es with _ | m
    · simp
    · by_cases h : m.count < e.count <;> simp [h]

/-- The least count stands in the list, strictly below all before it and at most all behind it. -/
theorem leastCount_spec {l : List Entry} {m : Entry} (h : leastCount l = some m) :
    ∃ before behind, l = before ++ m :: behind ∧ (∀ x ∈ before, m.count < x.count) ∧ ∀ x ∈ behind, m.count ≤ x.count := by
  induction l generalizing m with
  | nil => simp [leastCount] at h
  | cons e es ih =>
    rcases hes : leastCount es with _ | k
    · have hnil := leastCount_eq_none.mp hes
      simp only [leastCount, hes, Option.some.injEq] at h
      subst h; subst hnil
      exact ⟨[], [], rfl, by simp, by simp⟩
    · obtain ⟨before, behind, heq, hb, ha⟩ := ih hes
      simp only [leastCount, hes] at h
      by_cases hlt : k.count < e.count
      · simp only [hlt, if_true, Option.some.injEq] at h
        subst h
        refine ⟨e :: before, behind, by simp [heq], ?_, ha⟩
        intro x hx
        rcases List.mem_cons.mp hx with rfl | hx
        · exact hlt
        · exact hb x hx
      · simp only [hlt, if_false, Option.some.injEq] at h
        subst h
        refine ⟨[], es, rfl, by simp, ?_⟩
        intro x hx
        have hle : e.count ≤ k.count := Nat.le_of_not_lt hlt
        rw [heq] at hx
        rcases List.mem_append.mp hx with hx | hx
        · exact Nat.le_trans hle (Nat.le_of_lt (hb x hx))
        · rcases List.mem_cons.mp hx with rfl | hx
          · exact hle
          · exact Nat.le_trans hle (ha x hx)

/-- The least count of a list written around the oldest entry of least count. -/
theorem leastCount_append {before behind : List Entry} {m : Entry}
    (hb : ∀ x ∈ before, m.count < x.count) (ha : ∀ x ∈ behind, m.count ≤ x.count) :
    leastCount (before ++ m :: behind) = some m := by
  induction before with
  | nil =>
    simp only [List.nil_append, leastCount]
    rcases h : leastCount behind with _ | k
    · rfl
    · obtain ⟨b, c, heq, -, -⟩ := leastCount_spec h
      have : m.count ≤ k.count := ha k (by simp [heq])
      simp [Nat.not_lt.mpr this]
  | cons e es ih =>
    have h := ih fun x hx => hb x (by simp [hx])
    simp only [List.cons_append, leastCount, h, hb e (by simp), if_true]

/-! ### The place of an URGENT job -/

/-- Behind the last of the URGENT jobs that stand before the NORMAL ones. -/
theorem insertUrgent_append (j : Job) {urgents normals : List Job}
    (hu : ∀ x ∈ urgents, x.cls = .urgent) (hn : ∀ x ∈ normals, x.cls = .normal) :
    insertUrgent j (urgents ++ normals) = urgents ++ j :: normals := by
  have hu' : ∀ x ∈ urgents, Job.urgent x = true := fun x hx => by simp [Job.urgent, hu x hx]
  have hn' : normals.takeWhile Job.urgent = [] ∧ normals.dropWhile Job.urgent = normals := by
    cases normals with
    | nil => simp
    | cons a l =>
      have : Job.urgent a = false := by simp [Job.urgent, hn a (by simp)]
      simp [this]
  unfold insertUrgent
  rw [List.takeWhile_append_of_pos hu', List.dropWhile_append_of_pos hu', hn'.1, hn'.2, List.append_nil]

/-- The jobs of the list and the new one, in some order. -/
theorem insertUrgent_perm (j : Job) (l : List Job) : (insertUrgent j l).Perm (j :: l) := by
  unfold insertUrgent
  conv => rhs; rw [← List.takeWhile_append_dropWhile (p := Job.urgent) (l := l)]
  exact List.perm_middle

/-- The jobs of the list and the new one, in some order. -/
theorem placeJob_perm (j : Job) (l : List Job) : (placeJob j l).Perm (j :: l) := by
  unfold placeJob
  cases j.cls with
  | normal => exact List.perm_append_singleton j l
  | urgent => exact insertUrgent_perm j l

end Sys2Proof.Machine
end

