-- ==== Sys2Proof/Laws/State.lean ====
section
/-! SUPPORT. The fields of State after each update of the model, by rfl, and reading back one rank or one bank context. -/

namespace Sys2Proof.Machine

open Sys2Proof

/-! ### modRank -/

@[simp] theorem State.modRank_pending (s : State) (r : Rank) (f : RankUnit → RankUnit) : (s.modRank r f).pending = s.pending := rfl
@[simp] theorem State.modRank_wire (s : State) (r : Rank) (f : RankUnit → RankUnit) : (s.modRank r f).wire = s.wire := rfl
@[simp] theorem State.modRank_clock (s : State) (r : Rank) (f : RankUnit → RankUnit) : (s.modRank r f).clock = s.clock := rfl
@[simp] theorem State.modRank_link (s : State) (r : Rank) (f : RankUnit → RankUnit) : (s.modRank r f).link = s.link := rfl
@[simp] theorem State.modRank_bands (s : State) (r : Rank) (f : RankUnit → RankUnit) : (s.modRank r f).bands = s.bands := rfl
@[simp] theorem State.modRank_queue (s : State) (r : Rank) (f : RankUnit → RankUnit) : (s.modRank r f).queue = s.queue := rfl
@[simp] theorem State.modRank_engine (s : State) (r : Rank) (f : RankUnit → RankUnit) : (s.modRank r f).engine = s.engine := rfl
@[simp] theorem State.modRank_refusals (s : State) (r : Rank) (f : RankUnit → RankUnit) : (s.modRank r f).refusals = s.refusals := rfl
@[simp] theorem State.modRank_mgmt (s : State) (r : Rank) (f : RankUnit → RankUnit) : (s.modRank r f).mgmt = s.mgmt := rfl

/-! ### modContext -/

@[simp] theorem State.modContext_pending (s : State) (r : Rank) (b : Bank) (f : BankContext → BankContext) : (s.modContext r b f).pending = s.pending := rfl
@[simp] theorem State.modContext_wire (s : State) (r : Rank) (b : Bank) (f : BankContext → BankContext) : (s.modContext r b f).wire = s.wire := rfl
@[simp] theorem State.modContext_clock (s : State) (r : Rank) (b : Bank) (f : BankContext → BankContext) : (s.modContext r b f).clock = s.clock := rfl
@[simp] theorem State.modContext_link (s : State) (r : Rank) (b : Bank) (f : BankContext → BankContext) : (s.modContext r b f).link = s.link := rfl
@[simp] theorem State.modContext_bands (s : State) (r : Rank) (b : Bank) (f : BankContext → BankContext) : (s.modContext r b f).bands = s.bands := rfl
@[simp] theorem State.modContext_queue (s : State) (r : Rank) (b : Bank) (f : BankContext → BankContext) : (s.modContext r b f).queue = s.queue := rfl
@[simp] theorem State.modContext_engine (s : State) (r : Rank) (b : Bank) (f : BankContext → BankContext) : (s.modContext r b f).engine = s.engine := rfl
@[simp] theorem State.modContext_refusals (s : State) (r : Rank) (b : Bank) (f : BankContext → BankContext) : (s.modContext r b f).refusals = s.refusals := rfl
@[simp] theorem State.modContext_mgmt (s : State) (r : Rank) (b : Bank) (f : BankContext → BankContext) : (s.modContext r b f).mgmt = s.mgmt := rfl

/-! ### setOpen -/

@[simp] theorem State.setOpen_pending (s : State) (r : Rank) (b : Bank) (v : Bool) : (s.setOpen r b v).pending = s.pending := rfl
@[simp] theorem State.setOpen_wire (s : State) (r : Rank) (b : Bank) (v : Bool) : (s.setOpen r b v).wire = s.wire := rfl
@[simp] theorem State.setOpen_clock (s : State) (r : Rank) (b : Bank) (v : Bool) : (s.setOpen r b v).clock = s.clock := rfl
@[simp] theorem State.setOpen_link (s : State) (r : Rank) (b : Bank) (v : Bool) : (s.setOpen r b v).link = s.link := rfl
@[simp] theorem State.setOpen_bands (s : State) (r : Rank) (b : Bank) (v : Bool) : (s.setOpen r b v).bands = s.bands := rfl
@[simp] theorem State.setOpen_queue (s : State) (r : Rank) (b : Bank) (v : Bool) : (s.setOpen r b v).queue = s.queue := rfl
@[simp] theorem State.setOpen_engine (s : State) (r : Rank) (b : Bank) (v : Bool) : (s.setOpen r b v).engine = s.engine := rfl
@[simp] theorem State.setOpen_refusals (s : State) (r : Rank) (b : Bank) (v : Bool) : (s.setOpen r b v).refusals = s.refusals := rfl
@[simp] theorem State.setOpen_mgmt (s : State) (r : Rank) (b : Bank) (v : Bool) : (s.setOpen r b v).mgmt = s.mgmt := rfl

/-! ### setParams -/

@[simp] theorem State.setParams_pending (s : State) (r : Rank) (p : RankParams) : (s.setParams r p).pending = s.pending := rfl
@[simp] theorem State.setParams_wire (s : State) (r : Rank) (p : RankParams) : (s.setParams r p).wire = s.wire := rfl
@[simp] theorem State.setParams_clock (s : State) (r : Rank) (p : RankParams) : (s.setParams r p).clock = s.clock := rfl
@[simp] theorem State.setParams_link (s : State) (r : Rank) (p : RankParams) : (s.setParams r p).link = s.link := rfl
@[simp] theorem State.setParams_bands (s : State) (r : Rank) (p : RankParams) : (s.setParams r p).bands = s.bands := rfl
@[simp] theorem State.setParams_queue (s : State) (r : Rank) (p : RankParams) : (s.setParams r p).queue = s.queue := rfl
@[simp] theorem State.setParams_engine (s : State) (r : Rank) (p : RankParams) : (s.setParams r p).engine = s.engine := rfl
@[simp] theorem State.setParams_refusals (s : State) (r : Rank) (p : RankParams) : (s.setParams r p).refusals = s.refusals := rfl
@[simp] theorem State.setParams_mgmt (s : State) (r : Rank) (p : RankParams) : (s.setParams r p).mgmt = s.mgmt := rfl

/-! ### markEntry -/

@[simp] theorem State.markEntry_pending (s : State) (r : Rank) (b : Bank) (row : Nat) : (s.markEntry r b row).pending = s.pending := rfl
@[simp] theorem State.markEntry_wire (s : State) (r : Rank) (b : Bank) (row : Nat) : (s.markEntry r b row).wire = s.wire := rfl
@[simp] theorem State.markEntry_clock (s : State) (r : Rank) (b : Bank) (row : Nat) : (s.markEntry r b row).clock = s.clock := rfl
@[simp] theorem State.markEntry_link (s : State) (r : Rank) (b : Bank) (row : Nat) : (s.markEntry r b row).link = s.link := rfl
@[simp] theorem State.markEntry_bands (s : State) (r : Rank) (b : Bank) (row : Nat) : (s.markEntry r b row).bands = s.bands := rfl
@[simp] theorem State.markEntry_queue (s : State) (r : Rank) (b : Bank) (row : Nat) : (s.markEntry r b row).queue = s.queue := rfl
@[simp] theorem State.markEntry_engine (s : State) (r : Rank) (b : Bank) (row : Nat) : (s.markEntry r b row).engine = s.engine := rfl
@[simp] theorem State.markEntry_refusals (s : State) (r : Rank) (b : Bank) (row : Nat) : (s.markEntry r b row).refusals = s.refusals := rfl
@[simp] theorem State.markEntry_mgmt (s : State) (r : Rank) (b : Bank) (row : Nat) : (s.markEntry r b row).mgmt = s.mgmt := rfl

/-! ### resetEntry -/

@[simp] theorem State.resetEntry_pending (s : State) (r : Rank) (b : Bank) (row : Nat) : (s.resetEntry r b row).pending = s.pending := rfl
@[simp] theorem State.resetEntry_wire (s : State) (r : Rank) (b : Bank) (row : Nat) : (s.resetEntry r b row).wire = s.wire := rfl
@[simp] theorem State.resetEntry_clock (s : State) (r : Rank) (b : Bank) (row : Nat) : (s.resetEntry r b row).clock = s.clock := rfl
@[simp] theorem State.resetEntry_link (s : State) (r : Rank) (b : Bank) (row : Nat) : (s.resetEntry r b row).link = s.link := rfl
@[simp] theorem State.resetEntry_bands (s : State) (r : Rank) (b : Bank) (row : Nat) : (s.resetEntry r b row).bands = s.bands := rfl
@[simp] theorem State.resetEntry_queue (s : State) (r : Rank) (b : Bank) (row : Nat) : (s.resetEntry r b row).queue = s.queue := rfl
@[simp] theorem State.resetEntry_engine (s : State) (r : Rank) (b : Bank) (row : Nat) : (s.resetEntry r b row).engine = s.engine := rfl
@[simp] theorem State.resetEntry_refusals (s : State) (r : Rank) (b : Bank) (row : Nat) : (s.resetEntry r b row).refusals = s.refusals := rfl
@[simp] theorem State.resetEntry_mgmt (s : State) (r : Rank) (b : Bank) (row : Nat) : (s.resetEntry r b row).mgmt = s.mgmt := rfl

/-! ### clearTables -/

@[simp] theorem State.clearTables_pending (s : State) (r : Rank) : (s.clearTables r).pending = s.pending := rfl
@[simp] theorem State.clearTables_wire (s : State) (r : Rank) : (s.clearTables r).wire = s.wire := rfl
@[simp] theorem State.clearTables_clock (s : State) (r : Rank) : (s.clearTables r).clock = s.clock := rfl
@[simp] theorem State.clearTables_link (s : State) (r : Rank) : (s.clearTables r).link = s.link := rfl
@[simp] theorem State.clearTables_bands (s : State) (r : Rank) : (s.clearTables r).bands = s.bands := rfl
@[simp] theorem State.clearTables_queue (s : State) (r : Rank) : (s.clearTables r).queue = s.queue := rfl
@[simp] theorem State.clearTables_engine (s : State) (r : Rank) : (s.clearTables r).engine = s.engine := rfl
@[simp] theorem State.clearTables_refusals (s : State) (r : Rank) : (s.clearTables r).refusals = s.refusals := rfl
@[simp] theorem State.clearTables_mgmt (s : State) (r : Rank) : (s.clearTables r).mgmt = s.mgmt := rfl

/-! ### forward -/

@[simp] theorem State.forward_pending (s : State) (n : Nat) (f : FirstBeat) (b : SecondBeat) : (s.forward n f b).pending = s.pending := rfl
@[simp] theorem State.forward_wire (s : State) (n : Nat) (f : FirstBeat) (b : SecondBeat) : (s.forward n f b).wire = s.wire := rfl
@[simp] theorem State.forward_clock (s : State) (n : Nat) (f : FirstBeat) (b : SecondBeat) : (s.forward n f b).clock = s.clock := rfl
@[simp] theorem State.forward_link (s : State) (n : Nat) (f : FirstBeat) (b : SecondBeat) : (s.forward n f b).link = s.link := rfl
@[simp] theorem State.forward_bands (s : State) (n : Nat) (f : FirstBeat) (b : SecondBeat) : (s.forward n f b).bands = s.bands := rfl
@[simp] theorem State.forward_queue (s : State) (n : Nat) (f : FirstBeat) (b : SecondBeat) : (s.forward n f b).queue = s.queue := rfl
@[simp] theorem State.forward_engine (s : State) (n : Nat) (f : FirstBeat) (b : SecondBeat) : (s.forward n f b).engine = s.engine := rfl
@[simp] theorem State.forward_refusals (s : State) (n : Nat) (f : FirstBeat) (b : SecondBeat) : (s.forward n f b).refusals = s.refusals := rfl
@[simp] theorem State.forward_mgmt (s : State) (n : Nat) (f : FirstBeat) (b : SecondBeat) : (s.forward n f b).mgmt = s.mgmt := rfl

/-! ### engineDrive -/

@[simp] theorem State.engineDrive_pending (s : State) (m : Nat) (r : Rank) (op : BitVec 4) (k : Bank) (x : BitVec 17) : (s.engineDrive m r op k x).pending = s.pending := rfl
@[simp] theorem State.engineDrive_wire (s : State) (m : Nat) (r : Rank) (op : BitVec 4) (k : Bank) (x : BitVec 17) : (s.engineDrive m r op k x).wire = s.wire := rfl
@[simp] theorem State.engineDrive_clock (s : State) (m : Nat) (r : Rank) (op : BitVec 4) (k : Bank) (x : BitVec 17) : (s.engineDrive m r op k x).clock = s.clock := rfl
@[simp] theorem State.engineDrive_link (s : State) (m : Nat) (r : Rank) (op : BitVec 4) (k : Bank) (x : BitVec 17) : (s.engineDrive m r op k x).link = s.link := rfl
@[simp] theorem State.engineDrive_bands (s : State) (m : Nat) (r : Rank) (op : BitVec 4) (k : Bank) (x : BitVec 17) : (s.engineDrive m r op k x).bands = s.bands := rfl
@[simp] theorem State.engineDrive_queue (s : State) (m : Nat) (r : Rank) (op : BitVec 4) (k : Bank) (x : BitVec 17) : (s.engineDrive m r op k x).queue = s.queue := rfl
@[simp] theorem State.engineDrive_engine (s : State) (m : Nat) (r : Rank) (op : BitVec 4) (k : Bank) (x : BitVec 17) : (s.engineDrive m r op k x).engine = s.engine := rfl
@[simp] theorem State.engineDrive_refusals (s : State) (m : Nat) (r : Rank) (op : BitVec 4) (k : Bank) (x : BitVec 17) : (s.engineDrive m r op k x).refusals = s.refusals := rfl
@[simp] theorem State.engineDrive_mgmt (s : State) (m : Nat) (r : Rank) (op : BitVec 4) (k : Bank) (x : BitVec 17) : (s.engineDrive m r op k x).mgmt = s.mgmt := rfl

/-! ### closeTracking -/

@[simp] theorem State.closeTracking_pending (s : State) (r : Rank) : (s.closeTracking r).pending = s.pending := rfl
@[simp] theorem State.closeTracking_wire (s : State) (r : Rank) : (s.closeTracking r).wire = s.wire := rfl
@[simp] theorem State.closeTracking_clock (s : State) (r : Rank) : (s.closeTracking r).clock = s.clock := rfl
@[simp] theorem State.closeTracking_link (s : State) (r : Rank) : (s.closeTracking r).link = s.link := rfl
@[simp] theorem State.closeTracking_bands (s : State) (r : Rank) : (s.closeTracking r).bands = s.bands := rfl
@[simp] theorem State.closeTracking_queue (s : State) (r : Rank) : (s.closeTracking r).queue = s.queue := rfl
@[simp] theorem State.closeTracking_engine (s : State) (r : Rank) : (s.closeTracking r).engine = s.engine := rfl
@[simp] theorem State.closeTracking_refusals (s : State) (r : Rank) : (s.closeTracking r).refusals = s.refusals := rfl
@[simp] theorem State.closeTracking_mgmt (s : State) (r : Rank) : (s.closeTracking r).mgmt = s.mgmt := rfl

/-! ### setList -/

@[simp] theorem State.setList_pending (s : State) (l : List Job) : (s.setList l).pending = s.pending := rfl
@[simp] theorem State.setList_wire (s : State) (l : List Job) : (s.setList l).wire = s.wire := rfl
@[simp] theorem State.setList_clock (s : State) (l : List Job) : (s.setList l).clock = s.clock := rfl
@[simp] theorem State.setList_link (s : State) (l : List Job) : (s.setList l).link = s.link := rfl
@[simp] theorem State.setList_ranks (s : State) (l : List Job) : (s.setList l).ranks = s.ranks := rfl
@[simp] theorem State.setList_bands (s : State) (l : List Job) : (s.setList l).bands = s.bands := rfl
@[simp] theorem State.setList_engine (s : State) (l : List Job) : (s.setList l).engine = s.engine := rfl
@[simp] theorem State.setList_refusals (s : State) (l : List Job) : (s.setList l).refusals = s.refusals := rfl
@[simp] theorem State.setList_mgmt (s : State) (l : List Job) : (s.setList l).mgmt = s.mgmt := rfl

/-! ### settleFull -/

@[simp] theorem State.settleFull_pending (s : State) : (s.settleFull).pending = s.pending := rfl
@[simp] theorem State.settleFull_wire (s : State) : (s.settleFull).wire = s.wire := rfl
@[simp] theorem State.settleFull_clock (s : State) : (s.settleFull).clock = s.clock := rfl
@[simp] theorem State.settleFull_link (s : State) : (s.settleFull).link = s.link := rfl
@[simp] theorem State.settleFull_ranks (s : State) : (s.settleFull).ranks = s.ranks := rfl
@[simp] theorem State.settleFull_bands (s : State) : (s.settleFull).bands = s.bands := rfl
@[simp] theorem State.settleFull_engine (s : State) : (s.settleFull).engine = s.engine := rfl
@[simp] theorem State.settleFull_refusals (s : State) : (s.settleFull).refusals = s.refusals := rfl
@[simp] theorem State.settleFull_mgmt (s : State) : (s.settleFull).mgmt = s.mgmt := rfl

/-! ### dropJobs -/

@[simp] theorem State.dropJobs_pending (s : State) (r : Rank) (f : Stats → BitVec 32 → Stats) : (s.dropJobs r f).pending = s.pending := rfl
@[simp] theorem State.dropJobs_wire (s : State) (r : Rank) (f : Stats → BitVec 32 → Stats) : (s.dropJobs r f).wire = s.wire := rfl
@[simp] theorem State.dropJobs_clock (s : State) (r : Rank) (f : Stats → BitVec 32 → Stats) : (s.dropJobs r f).clock = s.clock := rfl
@[simp] theorem State.dropJobs_link (s : State) (r : Rank) (f : Stats → BitVec 32 → Stats) : (s.dropJobs r f).link = s.link := rfl
@[simp] theorem State.dropJobs_ranks (s : State) (r : Rank) (f : Stats → BitVec 32 → Stats) : (s.dropJobs r f).ranks = s.ranks := rfl
@[simp] theorem State.dropJobs_bands (s : State) (r : Rank) (f : Stats → BitVec 32 → Stats) : (s.dropJobs r f).bands = s.bands := rfl
@[simp] theorem State.dropJobs_engine (s : State) (r : Rank) (f : Stats → BitVec 32 → Stats) : (s.dropJobs r f).engine = s.engine := rfl
@[simp] theorem State.dropJobs_refusals (s : State) (r : Rank) (f : Stats → BitVec 32 → Stats) : (s.dropJobs r f).refusals = s.refusals := rfl
@[simp] theorem State.dropJobs_mgmt (s : State) (r : Rank) (f : Stats → BitVec 32 → Stats) : (s.dropJobs r f).mgmt = s.mgmt := rfl

/-! ### pushOutcome -/

@[simp] theorem State.pushOutcome_pending (s : State) (o : Outcome) : (s.pushOutcome o).pending = s.pending := rfl
@[simp] theorem State.pushOutcome_wire (s : State) (o : Outcome) : (s.pushOutcome o).wire = s.wire := rfl
@[simp] theorem State.pushOutcome_clock (s : State) (o : Outcome) : (s.pushOutcome o).clock = s.clock := rfl
@[simp] theorem State.pushOutcome_link (s : State) (o : Outcome) : (s.pushOutcome o).link = s.link := rfl
@[simp] theorem State.pushOutcome_ranks (s : State) (o : Outcome) : (s.pushOutcome o).ranks = s.ranks := rfl
@[simp] theorem State.pushOutcome_bands (s : State) (o : Outcome) : (s.pushOutcome o).bands = s.bands := rfl
@[simp] theorem State.pushOutcome_queue (s : State) (o : Outcome) : (s.pushOutcome o).queue = s.queue := rfl
@[simp] theorem State.pushOutcome_refusals (s : State) (o : Outcome) : (s.pushOutcome o).refusals = s.refusals := rfl
@[simp] theorem State.pushOutcome_mgmt (s : State) (o : Outcome) : (s.pushOutcome o).mgmt = s.mgmt := rfl

/-! ### retireEmpty -/

@[simp] theorem State.retireEmpty_pending (s : State) (p : List Job) (j : Job) (q : List Job) : (s.retireEmpty p j q).pending = s.pending := rfl
@[simp] theorem State.retireEmpty_wire (s : State) (p : List Job) (j : Job) (q : List Job) : (s.retireEmpty p j q).wire = s.wire := rfl
@[simp] theorem State.retireEmpty_clock (s : State) (p : List Job) (j : Job) (q : List Job) : (s.retireEmpty p j q).clock = s.clock := rfl
@[simp] theorem State.retireEmpty_link (s : State) (p : List Job) (j : Job) (q : List Job) : (s.retireEmpty p j q).link = s.link := rfl
@[simp] theorem State.retireEmpty_bands (s : State) (p : List Job) (j : Job) (q : List Job) : (s.retireEmpty p j q).bands = s.bands := rfl
@[simp] theorem State.retireEmpty_refusals (s : State) (p : List Job) (j : Job) (q : List Job) : (s.retireEmpty p j q).refusals = s.refusals := rfl
@[simp] theorem State.retireEmpty_mgmt (s : State) (p : List Job) (j : Job) (q : List Job) : (s.retireEmpty p j q).mgmt = s.mgmt := rfl

/-! ### startWindow -/

@[simp] theorem State.startWindow_pending (s : State) (r : Rank) (k : WindowKind) (p : Purpose) (n : Nat) : (s.startWindow r k p n).pending = s.pending := rfl
@[simp] theorem State.startWindow_wire (s : State) (r : Rank) (k : WindowKind) (p : Purpose) (n : Nat) : (s.startWindow r k p n).wire = s.wire := rfl
@[simp] theorem State.startWindow_clock (s : State) (r : Rank) (k : WindowKind) (p : Purpose) (n : Nat) : (s.startWindow r k p n).clock = s.clock := rfl
@[simp] theorem State.startWindow_link (s : State) (r : Rank) (k : WindowKind) (p : Purpose) (n : Nat) : (s.startWindow r k p n).link = s.link := rfl
@[simp] theorem State.startWindow_bands (s : State) (r : Rank) (k : WindowKind) (p : Purpose) (n : Nat) : (s.startWindow r k p n).bands = s.bands := rfl
@[simp] theorem State.startWindow_queue (s : State) (r : Rank) (k : WindowKind) (p : Purpose) (n : Nat) : (s.startWindow r k p n).queue = s.queue := rfl
@[simp] theorem State.startWindow_refusals (s : State) (r : Rank) (k : WindowKind) (p : Purpose) (n : Nat) : (s.startWindow r k p n).refusals = s.refusals := rfl
@[simp] theorem State.startWindow_mgmt (s : State) (r : Rank) (k : WindowKind) (p : Purpose) (n : Nat) : (s.startWindow r k p n).mgmt = s.mgmt := rfl

/-! ### report -/

@[simp] theorem State.report_pending (s : State) (n : Nat) (x : Report) : (s.report n x).pending = s.pending := rfl
@[simp] theorem State.report_wire (s : State) (n : Nat) (x : Report) : (s.report n x).wire = s.wire := rfl
@[simp] theorem State.report_clock (s : State) (n : Nat) (x : Report) : (s.report n x).clock = s.clock := rfl
@[simp] theorem State.report_link (s : State) (n : Nat) (x : Report) : (s.report n x).link = s.link := rfl
@[simp] theorem State.report_ranks (s : State) (n : Nat) (x : Report) : (s.report n x).ranks = s.ranks := rfl
@[simp] theorem State.report_bands (s : State) (n : Nat) (x : Report) : (s.report n x).bands = s.bands := rfl
@[simp] theorem State.report_queue (s : State) (n : Nat) (x : Report) : (s.report n x).queue = s.queue := rfl
@[simp] theorem State.report_engine (s : State) (n : Nat) (x : Report) : (s.report n x).engine = s.engine := rfl
@[simp] theorem State.report_mgmt (s : State) (n : Nat) (x : Report) : (s.report n x).mgmt = s.mgmt := rfl

/-! ### respond -/

@[simp] theorem State.respond_pending (s : State) (c : ResponseCode) (l : List Byte) : (s.respond c l).pending = s.pending := rfl
@[simp] theorem State.respond_wire (s : State) (c : ResponseCode) (l : List Byte) : (s.respond c l).wire = s.wire := rfl
@[simp] theorem State.respond_clock (s : State) (c : ResponseCode) (l : List Byte) : (s.respond c l).clock = s.clock := rfl
@[simp] theorem State.respond_link (s : State) (c : ResponseCode) (l : List Byte) : (s.respond c l).link = s.link := rfl
@[simp] theorem State.respond_ranks (s : State) (c : ResponseCode) (l : List Byte) : (s.respond c l).ranks = s.ranks := rfl
@[simp] theorem State.respond_bands (s : State) (c : ResponseCode) (l : List Byte) : (s.respond c l).bands = s.bands := rfl
@[simp] theorem State.respond_queue (s : State) (c : ResponseCode) (l : List Byte) : (s.respond c l).queue = s.queue := rfl
@[simp] theorem State.respond_engine (s : State) (c : ResponseCode) (l : List Byte) : (s.respond c l).engine = s.engine := rfl
@[simp] theorem State.respond_refusals (s : State) (c : ResponseCode) (l : List Byte) : (s.respond c l).refusals = s.refusals := rfl

/-! ### reply -/

@[simp] theorem State.reply_pending (s : State) (c : ResponseCode) : (s.reply c).pending = s.pending := rfl
@[simp] theorem State.reply_wire (s : State) (c : ResponseCode) : (s.reply c).wire = s.wire := rfl
@[simp] theorem State.reply_clock (s : State) (c : ResponseCode) : (s.reply c).clock = s.clock := rfl
@[simp] theorem State.reply_link (s : State) (c : ResponseCode) : (s.reply c).link = s.link := rfl
@[simp] theorem State.reply_ranks (s : State) (c : ResponseCode) : (s.reply c).ranks = s.ranks := rfl
@[simp] theorem State.reply_bands (s : State) (c : ResponseCode) : (s.reply c).bands = s.bands := rfl
@[simp] theorem State.reply_queue (s : State) (c : ResponseCode) : (s.reply c).queue = s.queue := rfl
@[simp] theorem State.reply_engine (s : State) (c : ResponseCode) : (s.reply c).engine = s.engine := rfl
@[simp] theorem State.reply_refusals (s : State) (c : ResponseCode) : (s.reply c).refusals = s.refusals := rfl

/-! ### setHeld -/

@[simp] theorem State.setHeld_pending (s : State) (f : Option FirstBeat) : (s.setHeld f).pending = s.pending := rfl
@[simp] theorem State.setHeld_wire (s : State) (f : Option FirstBeat) : (s.setHeld f).wire = s.wire := rfl
@[simp] theorem State.setHeld_clock (s : State) (f : Option FirstBeat) : (s.setHeld f).clock = s.clock := rfl
@[simp] theorem State.setHeld_ranks (s : State) (f : Option FirstBeat) : (s.setHeld f).ranks = s.ranks := rfl
@[simp] theorem State.setHeld_bands (s : State) (f : Option FirstBeat) : (s.setHeld f).bands = s.bands := rfl
@[simp] theorem State.setHeld_queue (s : State) (f : Option FirstBeat) : (s.setHeld f).queue = s.queue := rfl
@[simp] theorem State.setHeld_engine (s : State) (f : Option FirstBeat) : (s.setHeld f).engine = s.engine := rfl
@[simp] theorem State.setHeld_refusals (s : State) (f : Option FirstBeat) : (s.setHeld f).refusals = s.refusals := rfl
@[simp] theorem State.setHeld_mgmt (s : State) (f : Option FirstBeat) : (s.setHeld f).mgmt = s.mgmt := rfl

/-! ### passSlot -/

@[simp] theorem State.passSlot_pending (s : State) : (s.passSlot).pending = s.pending := rfl
@[simp] theorem State.passSlot_wire (s : State) : (s.passSlot).wire = s.wire := rfl
@[simp] theorem State.passSlot_link (s : State) : (s.passSlot).link = s.link := rfl
@[simp] theorem State.passSlot_ranks (s : State) : (s.passSlot).ranks = s.ranks := rfl
@[simp] theorem State.passSlot_bands (s : State) : (s.passSlot).bands = s.bands := rfl
@[simp] theorem State.passSlot_queue (s : State) : (s.passSlot).queue = s.queue := rfl
@[simp] theorem State.passSlot_engine (s : State) : (s.passSlot).engine = s.engine := rfl
@[simp] theorem State.passSlot_refusals (s : State) : (s.passSlot).refusals = s.refusals := rfl
@[simp] theorem State.passSlot_mgmt (s : State) : (s.passSlot).mgmt = s.mgmt := rfl

/-! ### reach -/

@[simp] theorem State.reach_pending (s : State) (n : Nat) : (s.reach n).pending = s.pending := rfl
@[simp] theorem State.reach_wire (s : State) (n : Nat) : (s.reach n).wire = s.wire := rfl
@[simp] theorem State.reach_link (s : State) (n : Nat) : (s.reach n).link = s.link := rfl
@[simp] theorem State.reach_ranks (s : State) (n : Nat) : (s.reach n).ranks = s.ranks := rfl
@[simp] theorem State.reach_bands (s : State) (n : Nat) : (s.reach n).bands = s.bands := rfl
@[simp] theorem State.reach_queue (s : State) (n : Nat) : (s.reach n).queue = s.queue := rfl
@[simp] theorem State.reach_engine (s : State) (n : Nat) : (s.reach n).engine = s.engine := rfl
@[simp] theorem State.reach_refusals (s : State) (n : Nat) : (s.reach n).refusals = s.refusals := rfl
@[simp] theorem State.reach_mgmt (s : State) (n : Nat) : (s.reach n).mgmt = s.mgmt := rfl

/-! ### Reading back what an update wrote -/

@[simp] theorem State.setList_list (s : State) (l : List Job) : (s.setList l).queue.list = l := rfl
@[simp] theorem State.setList_nextNumber (s : State) (l : List Job) : (s.setList l).queue.nextNumber = s.queue.nextNumber := rfl
@[simp] theorem State.setList_full (s : State) (l : List Job) : (s.setList l).queue.full = s.queue.full := rfl
@[simp] theorem State.setList_stats (s : State) (l : List Job) : (s.setList l).queue.stats = s.queue.stats := rfl
@[simp] theorem State.settleFull_list (s : State) : s.settleFull.queue.list = s.queue.list := rfl
@[simp] theorem State.settleFull_stats (s : State) : s.settleFull.queue.stats = s.queue.stats := rfl
@[simp] theorem State.settleFull_nextNumber (s : State) : s.settleFull.queue.nextNumber = s.queue.nextNumber := rfl
@[simp] theorem State.pushOutcome_window (s : State) (o : Outcome) : (s.pushOutcome o).engine.window = s.engine.window := rfl
@[simp] theorem State.pushOutcome_newest (s : State) (o : Outcome) : (s.pushOutcome o).engine.newest = some o := rfl
@[simp] theorem State.pushOutcome_previous (s : State) (o : Outcome) : (s.pushOutcome o).engine.previous = s.engine.newest := rfl
@[simp] theorem State.retireEmpty_list (s : State) (p : List Job) (j : Job) (q : List Job) :
    (s.retireEmpty p j q).queue.list = p ++ q := rfl
@[simp] theorem State.retireEmpty_stats (s : State) (p : List Job) (j : Job) (q : List Job) :
    (s.retireEmpty p j q).queue.stats = { s.queue.stats with empty := s.queue.stats.empty + 1 } := rfl
@[simp] theorem State.retireEmpty_nextNumber (s : State) (p : List Job) (j : Job) (q : List Job) :
    (s.retireEmpty p j q).queue.nextNumber = s.queue.nextNumber := rfl
@[simp] theorem State.retireEmpty_window (s : State) (p : List Job) (j : Job) (q : List Job) :
    (s.retireEmpty p j q).engine.window = s.engine.window := rfl
@[simp] theorem State.dropJobs_list (s : State) (r : Rank) (f : Stats → BitVec 32 → Stats) :
    (s.dropJobs r f).queue.list = s.queue.list.filter fun j => j.rank != r := rfl
@[simp] theorem State.dropJobs_nextNumber (s : State) (r : Rank) (f : Stats → BitVec 32 → Stats) :
    (s.dropJobs r f).queue.nextNumber = s.queue.nextNumber := rfl
@[simp] theorem State.setHeld_held (s : State) (f : Option FirstBeat) : (s.setHeld f).link.held = f := rfl
@[simp] theorem State.setHeld_resetHigh (s : State) (f : Option FirstBeat) : (s.setHeld f).link.resetHigh = s.link.resetHigh := rfl
@[simp] theorem State.passSlot_slot (s : State) : s.passSlot.clock.slot = s.clock.slot + 1 := rfl
@[simp] theorem State.passSlot_time (s : State) : s.passSlot.clock.time = s.clock.time := rfl
@[simp] theorem State.respond_response (s : State) (c : ResponseCode) (l : List Byte) :
    (s.respond c l).mgmt.response = some ⟨c, l, 0⟩ := rfl
@[simp] theorem State.respond_request (s : State) (c : ResponseCode) (l : List Byte) : (s.respond c l).mgmt.request = none := rfl
@[simp] theorem State.respond_address (s : State) (c : ResponseCode) (l : List Byte) :
    (s.respond c l).mgmt.address = s.mgmt.address := rfl
@[simp] theorem State.respond_mda (s : State) (c : ResponseCode) (l : List Byte) : (s.respond c l).mgmt.mda = s.mgmt.mda := rfl
@[simp] theorem State.respond_bus (s : State) (c : ResponseCode) (l : List Byte) : (s.respond c l).mgmt.bus = s.mgmt.bus := rfl
@[simp] theorem State.respond_ack (s : State) (c : ResponseCode) (l : List Byte) : (s.respond c l).mgmt.ack = s.mgmt.ack := rfl
@[simp] theorem State.report_sequence (s : State) (n : Nat) (x : Report) :
    (s.report n x).refusals.sequence = s.refusals.sequence + 1 := rfl
@[simp] theorem State.report_distance (s : State) (n : Nat) (x : Report) :
    (s.report n x).refusals.distance = s.refusals.distance := rfl
@[simp] theorem State.report_alert (s : State) (n : Nat) (x : Report) : (s.report n x).refusals.alert = s.refusals.alert := rfl

/-! ### One rank, one bank context -/

@[simp] theorem PerRank.get_set_same {α : Type} (p : PerRank α) (r : Rank) (x : α) : (p.set r x).get r = x := by
  by_cases h : r = 0 <;> simp [PerRank.get, PerRank.set, h]

theorem PerRank.get_set_ne {α : Type} (p : PerRank α) {r q : Rank} (x : α) (h : q ≠ r) : (p.set r x).get q = p.get q := by
  match r, q with
  | 0, 0 => exact absurd rfl h
  | 0, 1 => rfl
  | 1, 0 => rfl
  | 1, 1 => exact absurd rfl h

@[simp] theorem PerRank.get_map {α β : Type} (p : PerRank α) (f : α → β) (r : Rank) : (p.map f).get r = f (p.get r) := by
  by_cases h : r = 0 <;> simp [PerRank.get, PerRank.map, h]

/-- Two pairs with the same values for both ranks are the same. -/
theorem PerRank.ext_get {α : Type} {p q : PerRank α} (h : ∀ r, p.get r = q.get r) : p = q := by
  have h0 := h 0
  have h1 := h 1
  cases p; cases q
  simp_all [PerRank.get]

@[simp] theorem State.rank_modRank_same (s : State) (r : Rank) (f : RankUnit → RankUnit) :
    (s.modRank r f).rank r = f (s.rank r) := PerRank.get_set_same _ _ _

theorem State.rank_modRank_ne (s : State) {r q : Rank} (f : RankUnit → RankUnit) (h : q ≠ r) :
    (s.modRank r f).rank q = s.rank q := PerRank.get_set_ne _ _ h

/-- Two changes of one rank in turn are one change. -/
theorem State.modRank_modRank (s : State) (r : Rank) (f g : RankUnit → RankUnit) :
    (s.modRank r f).modRank r g = s.modRank r fun u => g (f u) := by
  match r with
  | 0 => rfl
  | 1 => rfl

/-- A rank after one rank is changed. -/
theorem State.rank_modRank (s : State) (r q : Rank) (f : RankUnit → RankUnit) :
    (s.modRank r f).rank q = if q = r then f (s.rank r) else s.rank q := by
  by_cases h : q = r
  · subst h; simp
  · simp [h, s.rank_modRank_ne f h]

/-- Reading place `c` of a vector of 16 whose place `b` was set. -/
theorem getAfterSet {α : Type} (v : Vector α 16) (b c : Bank) (x : α) :
    (v.set b.val x b.isLt).get c = if c = b then x else v.get c := by
  have h : (v.set b.val x b.isLt)[c.val]'c.isLt = if b.val = c.val then x else v[c.val]'c.isLt :=
    Vector.getElem_set b.isLt c.isLt
  have e : (b.val = c.val) = (c = b) := by
    apply propext
    constructor
    · intro k; exact Fin.ext k.symm
    · intro k; exact congrArg Fin.val k.symm
  simp only [e] at h
  exact h

/-- A bank context after one bank context is changed. -/
theorem State.context_modContext (s : State) (r q : Rank) (b c : Bank) (f : BankContext → BankContext) :
    (s.modContext r b f).context q c = if q = r ∧ c = b then f (s.context r b) else s.context q c := by
  unfold State.modContext State.context
  rw [State.rank_modRank]
  by_cases hq : q = r
  · subst hq
    simp only [true_and, if_true]
    rw [getAfterSet]
  · simp [hq]

@[simp] theorem State.context_modContext_same (s : State) (r : Rank) (b : Bank) (f : BankContext → BankContext) :
    (s.modContext r b f).context r b = f (s.context r b) := by
  simp [State.context_modContext]

/-- A bank's state after one bank is set. -/
theorem State.isOpen_setOpen (s : State) (r q : Rank) (b c : Bank) (v : Bool) :
    (s.setOpen r b v).isOpen q c = if q = r ∧ c = b then v else s.isOpen q c := by
  unfold State.setOpen State.isOpen
  rw [State.rank_modRank]
  by_cases hq : q = r
  · subst hq
    simp only [true_and, if_true]
    rw [getAfterSet]
  · simp [hq]

end Sys2Proof.Machine
end

