-- ==== Sys2Proof/Laws/Queue.lean ====
section
/-! SUPPORT. What the shared operations of the queue can change: the list, the queue-full flag, the statistics, the outcome
history and the entries' marks and counts; never the parameters, the rank states, the ports, the window, the link, the
management port or what is still to come. -/

namespace Sys2Proof.Machine

open Sys2Proof

/-- The two states differ at most in the list, the flag, the statistics, the outcome history, and in the counts and flags of
the entries, which keep their rows and places. -/
structure QueueMoves (s t : State) : Prop where
  pending : t.pending = s.pending
  wire : t.wire = s.wire
  clock : t.clock = s.clock
  link : t.link = s.link
  bands : t.bands = s.bands
  refusals : t.refusals = s.refusals
  mgmt : t.mgmt = s.mgmt
  window : t.engine.window = s.engine.window
  nextNumber : t.queue.nextNumber = s.queue.nextNumber
  rank : ∀ r, t.rank r = { s.rank r with contexts := (t.rank r).contexts }
  rows : ∀ r b, (t.context r b).entries.map Entry.row = (s.context r b).entries.map Entry.row
  record : ∀ r b, t.context r b = { s.context r b with entries := (t.context r b).entries }

theorem QueueMoves.refl (s : State) : QueueMoves s s :=
  ⟨rfl, rfl, rfl, rfl, rfl, rfl, rfl, rfl, rfl, fun _ => rfl, fun _ _ => rfl, fun _ _ => rfl⟩

theorem QueueMoves.trans {s t u : State} (h : QueueMoves s t) (k : QueueMoves t u) : QueueMoves s u where
  pending := k.pending.trans h.pending
  wire := k.wire.trans h.wire
  clock := k.clock.trans h.clock
  link := k.link.trans h.link
  bands := k.bands.trans h.bands
  refusals := k.refusals.trans h.refusals
  mgmt := k.mgmt.trans h.mgmt
  window := k.window.trans h.window
  nextNumber := k.nextNumber.trans h.nextNumber
  rank := fun r => by rw [k.rank r, h.rank r]
  rows := fun r b => (k.rows r b).trans (h.rows r b)
  record := fun r b => by rw [k.record r b, h.record r b]

/-- Another list moves nothing else. -/
theorem setList_moves (s : State) (l : List Job) : QueueMoves s (s.setList l) :=
  ⟨rfl, rfl, rfl, rfl, rfl, rfl, rfl, rfl, rfl, fun _ => rfl, fun _ _ => rfl, fun _ _ => rfl⟩

/-- Changing an entry in its place keeps rows and bank record, when the change keeps the row. -/
theorem change_rows (c : BankContext) (row : Nat) (f : Entry → Entry) (hf : ∀ e, (f e).row = e.row) :
    (c.change row f).entries.map Entry.row = c.entries.map Entry.row := by
  simp only [BankContext.change, List.map_map]
  apply List.map_congr_left
  intro e _
  simp only [Function.comp]
  split
  · exact hf e
  · rfl

/-- The rank of a state after one of its bank contexts changed: only the contexts differ. -/
theorem rank_modContext (s : State) (r q : Rank) (b : Bank) (f : BankContext → BankContext) :
    (s.modContext r b f).rank q = { s.rank q with contexts := ((s.modContext r b f).rank q).contexts } := by
  simp only [State.modContext, State.rank_modRank]
  split
  · subst q; rfl
  · rfl

/-- Changing an entry in its place is a move of the queue. -/
theorem changeEntry_moves (s : State) (r : Rank) (b : Bank) (row : Nat) (f : Entry → Entry) (hf : ∀ e, (f e).row = e.row) :
    QueueMoves s (s.modContext r b fun c => c.change row f) where
  pending := rfl
  wire := rfl
  clock := rfl
  link := rfl
  bands := rfl
  refusals := rfl
  mgmt := rfl
  window := rfl
  nextNumber := rfl
  rank := fun q => rank_modContext s r q b _
  rows := fun q a => by
    rw [State.context_modContext]
    split
    · rename_i h
      obtain ⟨rfl, rfl⟩ := h
      exact change_rows _ row f hf
    · rfl
  record := fun q a => by
    rw [State.context_modContext]
    split
    · rename_i h
      obtain ⟨rfl, rfl⟩ := h
      rfl
    · rfl

/-- An EMPTY retirement is a move of the queue. -/
theorem retireEmpty_moves (s : State) (before : List Job) (j : Job) (behind : List Job) :
    QueueMoves s (s.retireEmpty before j behind) := by
  unfold State.retireEmpty State.resetEntry
  refine QueueMoves.trans ?_ (changeEntry_moves _ _ _ _ _ fun _ => rfl)
  exact ⟨rfl, rfl, rfl, rfl, rfl, rfl, rfl, rfl, rfl, fun _ => rfl, fun _ _ => rfl, fun _ _ => rfl⟩

/-- A re-evaluation of the staged slot is a move of the queue. -/
theorem restageLoop_moves (n : Nat) (s : State) : QueueMoves s (State.restageLoop n s) := by
  induction n generalizing s with
  | zero => exact setList_moves s _
  | succ n ih =>
    unfold State.restageLoop
    rcases splitFirst s.eligible s.queue.list with _ | ⟨before, j, behind⟩
    · exact setList_moves s _
    · dsimp only
      rcases j.victims with _ | vs
      · dsimp only
        rcases s.victimsFor j with _ | ⟨v, vs⟩
        · exact (retireEmpty_moves s before j behind).trans (ih _)
        · exact setList_moves s _
      · exact setList_moves s _

/-- A re-evaluation of the staged slot is a move of the queue. -/
theorem restage_moves (s : State) : QueueMoves s s.restage := restageLoop_moves _ s

/-- A take is a move of the queue. -/
theorem takeLoop_moves (r : Rank) (urgentOnly : Bool) (n : Nat) (s : State) :
    QueueMoves s (State.takeLoop r urgentOnly n s).1 := by
  induction n generalizing s with
  | zero => exact QueueMoves.refl s
  | succ n ih =>
    unfold State.takeLoop
    generalize splitFirst _ s.queue.list = x
    rcases x with _ | ⟨before, j, behind⟩
    · exact QueueMoves.refl s
    · dsimp only
      split
      · exact QueueMoves.refl s
      · rcases j.victims with _ | vs
        · dsimp only
          rcases s.victimsFor j with _ | ⟨v, vs⟩
          · exact (retireEmpty_moves s before j behind).trans (ih _)
          · exact setList_moves s _
        · exact setList_moves s _

/-- A take is a move of the queue. -/
theorem take_moves (s : State) (r : Rank) (urgentOnly : Bool) : QueueMoves s (s.take r urgentOnly).1 :=
  takeLoop_moves r urgentOnly _ s

/-- A promotion is a move of the queue. -/
theorem promote_moves (s : State) (r : Rank) (b : Bank) (row : Nat) : QueueMoves s (s.promote r b row) := by
  unfold State.promote
  generalize splitFirst _ s.queue.list = x
  rcases x with _ | ⟨before, j, behind⟩
  · exact QueueMoves.refl s
  · exact (setList_moves s _).trans (restage_moves _)

/-- An accepted job moves the queue once its number is taken. -/
theorem acceptJob_moves (s : State) (r : Rank) (b : Bank) (row : Nat) (k : JobClass) (o : Origin) (n : Nat) :
    QueueMoves { s with queue := { s.queue with nextNumber := s.queue.nextNumber + 1 } } (s.acceptJob r b row k o n) := by
  unfold State.acceptJob State.markEntry
  refine QueueMoves.trans ?_ (restage_moves _)
  refine QueueMoves.trans ?_ (changeEntry_moves _ _ _ _ _ fun _ => rfl)
  exact ⟨rfl, rfl, rfl, rfl, rfl, rfl, rfl, rfl, rfl, fun _ => rfl, fun _ _ => rfl, fun _ _ => rfl⟩

/-- A move of the queue keeps every rank state, and so which jobs are eligible. -/
theorem QueueMoves.state {s t : State} (h : QueueMoves s t) (r : Rank) : (t.rank r).state = (s.rank r).state := by
  rw [h.rank r]

/-- A move of the queue keeps which jobs are eligible. -/
theorem QueueMoves.eligible {s t : State} (h : QueueMoves s t) : t.eligible = s.eligible := by
  funext j
  simp only [State.eligible, h.state]

/-- A move of the queue keeps the parameters. -/
theorem QueueMoves.params {s t : State} (h : QueueMoves s t) (r : Rank) : t.params r = s.params r := by
  simp only [State.params]
  rw [h.rank r]

/-- A move of the queue keeps the victim list of every job. -/
theorem QueueMoves.victimsFor {s t : State} (h : QueueMoves s t) (j : Job) : t.victimsFor j = s.victimsFor j := by
  simp only [State.victimsFor, h.params]
  rw [h.rank j.rank]

/-- A move of the queue keeps the job of the active slot. -/
theorem QueueMoves.active {s t : State} (h : QueueMoves s t) : t.active = s.active := by
  simp only [State.active, h.window]

/-- A move of the queue keeps the effective band. -/
theorem QueueMoves.effectiveBand {s t : State} (h : QueueMoves s t) : t.effectiveBand = s.effectiveBand := by
  simp only [State.effectiveBand, h.bands]

end Sys2Proof.Machine
end

