-- ==== Sys2Proof/Laws/Shell.lean ====
section
/-! SUPPORT. What the tables, the queue and the engine's steps neither read nor change: the waiting commands, the clocks, the
link, the refusal unit, the management port and the beats on the ports. Each shared operation commutes with a change of
these. -/

namespace Sys2Proof.Machine

open Sys2Proof

/-- The state with everything replaced that the tables and the queue do not read. -/
def State.reshell (s : State) (p : List Instr) (bus : List BusEvent) (c : Clock) (l : Link) (u : Refusals) (m : Mgmt) : State :=
  { s with pending := p, wire := bus, clock := c, link := l, refusals := u, mgmt := m }

section Reshell

variable (p : List Instr) (bus : List BusEvent) (c : Clock) (l : Link) (u : Refusals) (m : Mgmt)

theorem restageLoop_reshell (n : Nat) (s : State) :
    State.restageLoop n (s.reshell p bus c l u m) = (State.restageLoop n s).reshell p bus c l u m := by
  induction n generalizing s with
  | zero => rfl
  | succ n ih =>
    have hs : splitFirst (s.reshell p bus c l u m).eligible (s.reshell p bus c l u m).queue.list =
        splitFirst s.eligible s.queue.list := rfl
    unfold State.restageLoop
    rw [hs]
    rcases splitFirst s.eligible s.queue.list with _ | ⟨before, j, behind⟩
    · rfl
    · dsimp only
      rcases j.victims with _ | vs
      · have hv : (s.reshell p bus c l u m).victimsFor j = s.victimsFor j := rfl
        dsimp only
        rw [hv]
        rcases s.victimsFor j with _ | ⟨v, vs⟩
        · exact ih (s.retireEmpty before j behind)
        · rfl
      · rfl

theorem restage_reshell (s : State) : (s.reshell p bus c l u m).restage = s.restage.reshell p bus c l u m :=
  restageLoop_reshell p bus c l u m _ s

theorem acceptJob_reshell (s : State) (r : Rank) (b : Bank) (row : Nat) (k : JobClass) (o : Origin) (n : Nat) :
    (s.reshell p bus c l u m).acceptJob r b row k o n = (s.acceptJob r b row k o n).reshell p bus c l u m := by
  unfold State.acceptJob
  rw [← restage_reshell]
  rfl

theorem enqueueAttempt_reshell (s : State) (r : Rank) (b : Bank) (row : Nat) (k : JobClass) (n : Nat) :
    (s.reshell p bus c l u m).enqueueAttempt r b row k n = (s.enqueueAttempt r b row k n).reshell p bus c l u m := by
  have h : (s.reshell p bus c l u m).heldCount = s.heldCount := rfl
  unfold State.enqueueAttempt
  rw [h]
  split
  · rfl
  · exact acceptJob_reshell p bus c l u m s r b row k .count n

theorem promote_reshell (s : State) (r : Rank) (b : Bank) (row : Nat) :
    (s.reshell p bus c l u m).promote r b row = (s.promote r b row).reshell p bus c l u m := by
  have h : (s.reshell p bus c l u m).queue = s.queue := rfl
  unfold State.promote
  rw [h]
  generalize splitFirst _ s.queue.list = x
  rcases x with _ | ⟨before, j, behind⟩
  · rfl
  · dsimp only
    rw [← restage_reshell]
    rfl

theorem evaluate_reshell (s : State) (r : Rank) (b : Bank) (row : Nat) :
    (s.reshell p bus c l u m).evaluate r b row = (s.evaluate r b row).reshell p bus c l u m := by
  have hc : (s.reshell p bus c l u m).context r b = s.context r b := rfl
  have hu : (s.reshell p bus c l u m).urgentLevel r = s.urgentLevel r := rfl
  have hs : (s.reshell p bus c l u m).serviceLevel r = s.serviceLevel r := rfl
  unfold State.evaluate
  rw [hc, hu, hs]
  rcases (s.context r b).find row with _ | e
  · rfl
  · dsimp only
    split
    · split
      · exact promote_reshell p bus c l u m s r b row
      · rfl
    · split
      · exact enqueueAttempt_reshell p bus c l u m s r b row _ _
      · rfl

theorem countActivation_reshell (s : State) (r : Rank) (b : Bank) (row : Nat) :
    (s.reshell p bus c l u m).countActivation r b row = (s.countActivation r b row).reshell p bus c l u m := by
  have ht : (s.reshell p bus c l u m).params r = s.params r := rfl
  unfold State.countActivation
  rw [ht]
  split
  · rw [← evaluate_reshell]
    rfl
  · rfl

theorem openStep_reshell (s : State) (k : Nat) (w : Window) (j : Job) (v : Nat) :
    (s.reshell p bus c l u m).openStep k w j v = (s.openStep k w j v).reshell p bus c l u m := by
  unfold State.openStep
  rw [← countActivation_reshell]
  rfl

theorem takeLoop_reshell (r : Rank) (urgentOnly : Bool) (n : Nat) (s : State) :
    State.takeLoop r urgentOnly n (s.reshell p bus c l u m) =
      ((State.takeLoop r urgentOnly n s).1.reshell p bus c l u m, (State.takeLoop r urgentOnly n s).2) := by
  induction n generalizing s with
  | zero => rfl
  | succ n ih =>
    have h : (s.reshell p bus c l u m).queue = s.queue := rfl
    unfold State.takeLoop
    rw [h]
    generalize splitFirst _ s.queue.list = x
    rcases x with _ | ⟨before, j, behind⟩
    · rfl
    · dsimp only
      split
      · rfl
      · rcases j.victims with _ | vs
        · have hv : (s.reshell p bus c l u m).victimsFor j = s.victimsFor j := rfl
          dsimp only
          rw [hv]
          rcases s.victimsFor j with _ | ⟨v, vs⟩
          · exact ih (s.retireEmpty before j behind)
          · rfl
        · rfl

theorem take_reshell (s : State) (r : Rank) (urgentOnly : Bool) :
    (s.reshell p bus c l u m).take r urgentOnly = ((s.take r urgentOnly).1.reshell p bus c l u m, (s.take r urgentOnly).2) :=
  takeLoop_reshell p bus c l u m r urgentOnly _ s

end Reshell

/-! ### Beats on a port -/

/-- The beats on the port of rank `r` changed by `f`. -/
def State.onPort (s : State) (r : Rank) (f : List PortBeat → List PortBeat) : State :=
  s.modRank r fun u => { u with port := f u.port }

/-- The beats on a port stand beside the contexts of every rank. -/
theorem modContext_onPort (s : State) (r q : Rank) (b : Bank) (f : List PortBeat → List PortBeat)
    (g : BankContext → BankContext) :
    (s.onPort r f).modContext q b g = (s.modContext q b g).onPort r f := by
  match r, q with
  | 0, 0 => rfl
  | 0, 1 => rfl
  | 1, 0 => rfl
  | 1, 1 => rfl

section Port

variable (r : Rank) (f : List PortBeat → List PortBeat)

theorem rank_onPort (s : State) (q : Rank) :
    (s.onPort r f).rank q = if q = r then { s.rank q with port := f (s.rank q).port } else s.rank q := by
  unfold State.onPort
  rw [State.rank_modRank]
  split
  · subst q; rfl
  · rfl

theorem params_onPort (s : State) (q : Rank) : (s.onPort r f).params q = s.params q := by
  unfold State.params
  rw [rank_onPort]
  split <;> rfl

theorem eligible_onPort (s : State) : (s.onPort r f).eligible = s.eligible := by
  funext j
  unfold State.eligible
  rw [rank_onPort]
  split <;> rfl

theorem victimsFor_onPort (s : State) (j : Job) : (s.onPort r f).victimsFor j = s.victimsFor j := by
  unfold State.victimsFor
  rw [params_onPort, rank_onPort]
  split <;> rfl

theorem retireEmpty_onPort (s : State) (before : List Job) (j : Job) (behind : List Job) :
    (s.onPort r f).retireEmpty before j behind = (s.retireEmpty before j behind).onPort r f := by
  unfold State.retireEmpty State.resetEntry
  rw [← modContext_onPort]
  rfl

theorem restageLoop_onPort (n : Nat) (s : State) :
    State.restageLoop n (s.onPort r f) = (State.restageLoop n s).onPort r f := by
  induction n generalizing s with
  | zero => rfl
  | succ n ih =>
    have hq : (s.onPort r f).queue = s.queue := rfl
    unfold State.restageLoop
    rw [eligible_onPort, hq]
    rcases splitFirst s.eligible s.queue.list with _ | ⟨before, j, behind⟩
    · rfl
    · dsimp only
      rcases j.victims with _ | vs
      · dsimp only
        rw [victimsFor_onPort]
        rcases s.victimsFor j with _ | ⟨v, vs⟩
        · dsimp only
          rw [retireEmpty_onPort]
          exact ih _
        · rfl
      · rfl

theorem restage_onPort (s : State) : (s.onPort r f).restage = s.restage.onPort r f :=
  restageLoop_onPort r f _ s

end Port

end Sys2Proof.Machine
end

