-- ==== Sys2Proof/Laws/Bus.lean ====
section
/-! SUPPORT. The management port on the bus: what a request's row does whatever the port holds, and what each event of a
transaction leaves of the port. -/

namespace Sys2Proof.Machine

open Sys2Proof

/-! ### Request rows and the port -/

/-- Another management port. -/
def State.setMgmt (s : State) (m : Mgmt) : State := { s with mgmt := m }

@[simp] theorem State.setMgmt_mgmt (s : State) (m : Mgmt) : (s.setMgmt m).mgmt = m := rfl
@[simp] theorem State.setMgmt_self (s : State) : s.setMgmt s.mgmt = s := rfl
@[simp] theorem State.setMgmt_setMgmt (s : State) (m n : Mgmt) : (s.setMgmt m).setMgmt n = s.setMgmt n := rfl

/-- A decision that does not look at the port and leaves it as it is. -/
def PortBlind (f : State → State × ResponseCode) : Prop :=
  ∀ s : State, ∃ (t : State) (code : ResponseCode), t.mgmt = s.mgmt ∧ ∀ m, f (s.setMgmt m) = (t.setMgmt m, code)

/-- A row that does not look at the port and answers it a response. -/
def Responds (f : State → Answer) : Prop :=
  ∀ s : State, ∃ (t : State) (code : ResponseCode) (body : List Byte), t.mgmt = s.mgmt ∧ ∀ m, f (s.setMgmt m) = .next ((t.setMgmt m).respond code body)

/-- One answer for all ports. -/
theorem responds_of (f : State → Answer) (g : State → State) (code : State → ResponseCode) (body : State → List Byte)
    (hg : ∀ s m, g (s.setMgmt m) = (g s).setMgmt m) (hc : ∀ s m, code (s.setMgmt m) = code s)
    (hb : ∀ s m, body (s.setMgmt m) = body s) (h : ∀ s, f s = .next ((g s).respond (code s) (body s))) : Responds f := by
  intro s
  refine ⟨g s, code s, body s, ?_, fun m => by rw [h, hg, hc, hb]⟩
  have := hg s s.mgmt
  rw [State.setMgmt_self] at this
  rw [this, State.setMgmt_mgmt]

/-- A response that changes nothing but the port. -/
theorem responds_body (code : State → ResponseCode) (body : State → List Byte) (hc : ∀ s m, code (s.setMgmt m) = code s)
    (hb : ∀ s m, body (s.setMgmt m) = body s) : Responds fun s => .next (s.respond (code s) (body s)) :=
  responds_of _ id code body (fun _ _ => rfl) hc hb fun _ => rfl

/-- A decision that changes the rest of the state, with a fixed code. -/
theorem portBlind_stores (g : State → State) (code : ResponseCode) (hg : ∀ s m, g (s.setMgmt m) = (g s).setMgmt m) :
    PortBlind fun s => (g s, code) := by
  intro s
  refine ⟨g s, code, ?_, fun m => by dsimp only; rw [hg]⟩
  have := hg s s.mgmt
  rw [State.setMgmt_self] at this
  rw [this, State.setMgmt_mgmt]

/-- One more condition that refuses. -/
theorem portBlind_refusedIf (bad : State → Bool) (code : ResponseCode) {f : State → State × ResponseCode}
    (hb : ∀ s m, bad (s.setMgmt m) = bad s) (hf : PortBlind f) : PortBlind fun s => s.refusedIf (bad s) code (f s) := by
  intro s
  unfold State.refusedIf
  rcases h : bad s
  · obtain ⟨t, c, ht, k⟩ := hf s
    exact ⟨t, c, ht, fun m => by dsimp only; rw [hb, h]; exact k m⟩
  · exact ⟨s, code, rfl, fun m => by dsimp only; rw [hb, h]; rfl⟩

/-- A per-rank write decided without looking at the port. -/
theorem responds_writeRank (rank : Byte) (f : State → Rank → State × ResponseCode) (h : ∀ r, PortBlind fun s => f s r) :
    Responds fun s => .next (s.writeRank rank (f s)) := by
  intro s
  unfold State.writeRank
  rcases rankOf rank with _ | r
  · exact ⟨s, .range, [], rfl, fun _ => rfl⟩
  · obtain ⟨t, code, ht, k⟩ := h r s
    exact ⟨t, code, [], ht, fun m => by dsimp only at k ⊢; rw [k m]; rfl⟩

/-- The re-evaluation does not look at the port. -/
theorem restage_setMgmt (s : State) (m : Mgmt) : (s.setMgmt m).restage = s.restage.setMgmt m := by
  have h := restage_moves s
  have e := restage_reshell s.pending s.wire s.clock s.link s.refusals m s
  rw [← h.pending, ← h.wire, ← h.clock, ← h.link, ← h.refusals] at e
  exact Eq.trans (by rw [h.pending, h.wire, h.clock, h.link, h.refusals]; rfl) e

/-- Clearing a rank does not look at the port. -/
theorem discardRank_setMgmt (s : State) (r : Rank) (m : Mgmt) : (s.setMgmt m).discardRank r = (s.discardRank r).setMgmt m :=
  restage_setMgmt ((s.clearTables r).dropJobs r Stats.addDiscarded) m

/-- Accepting a job does not look at the port. -/
theorem acceptJob_setMgmt (s : State) (r : Rank) (b : Bank) (row : Nat) (k : JobClass) (o : Origin) (n : Nat) (m : Mgmt) :
    (s.setMgmt m).acceptJob r b row k o n = (s.acceptJob r b row k o n).setMgmt m := by
  unfold State.acceptJob
  rw [← restage_setMgmt]
  rfl

/-- A row that answers the port a response whatever the port holds. -/
theorem responds_reply (code : ResponseCode) : Responds fun s => .next (s.reply code) :=
  fun s => ⟨s, code, [], rfl, fun _ => rfl⟩

/-- A change of the rest of the state, answered with a fixed code. -/
theorem responds_stores (g : State → State) (code : ResponseCode) (hg : ∀ s m, g (s.setMgmt m) = (g s).setMgmt m) :
    Responds fun s => .next ((g s).reply code) :=
  responds_of _ g (fun _ => code) (fun _ => []) hg (fun _ _ => rfl) (fun _ _ => rfl) fun _ => rfl

/-- Every request's row answers a response and does nothing else to the port, whatever the port holds. -/
theorem request_responds (c : Instr) (bytes : List Byte) (h : requestBytes c = some bytes) : Responds (exec c) := by
  cases c
  case status => exact responds_body (fun _ => .ok) State.statusBody (fun _ _ => rfl) fun _ _ => rfl
  case readParameter identifier rank =>
    intro s
    simp only [exec, execReadParameter]
    have hd : ∀ m, (s.setMgmt m).deviceValue identifier.toNat = s.deviceValue identifier.toNat := fun _ => rfl
    have hp : ∀ m r, (s.setMgmt m).params r = s.params r := fun _ _ => rfl
    simp only [hd, hp]
    rcases s.deviceValue identifier.toNat with _ | v
    · rcases rankOf rank with _ | r
      · exact ⟨s, .range, [], rfl, fun _ => rfl⟩
      · dsimp only
        rcases (s.params r).value identifier.toNat with _ | v
        · exact ⟨s, .range, [], rfl, fun _ => rfl⟩
        · exact ⟨s, .ok, _, rfl, fun _ => rfl⟩
    · exact ⟨s, .ok, _, rfl, fun _ => rfl⟩
  case trackWrite rank value =>
    refine responds_writeRank _ _ fun r => ?_
    refine portBlind_refusedIf _ _ (fun _ _ => rfl) ?_
    refine portBlind_refusedIf _ _ (fun _ _ => rfl) ?_
    exact portBlind_stores _ _ fun s m => discardRank_setMgmt (s.setParams r _) r m
  case stalePeriodWrite rank value =>
    intro s
    simp only [exec, execStalePeriodWrite]
    split
    · exact ⟨s, .range, [], rfl, fun _ => rfl⟩
    · exact ⟨{ s with bands := { s.bands with stalePeriod := value.toNat, timer := startStale value.toNat } }, .ok, [], rfl,
        fun _ => rfl⟩
  case refusalDistanceWrite rank value =>
    intro s
    simp only [exec, execRefusalDistanceWrite]
    split
    · exact ⟨s, .range, [], rfl, fun _ => rfl⟩
    · exact ⟨{ s with refusals := { s.refusals with distance := value.toNat } }, .ok, [], rfl, fun _ => rfl⟩
  case writeParameterUnknownIdentifier identifier rank value => exact responds_reply .range
  case setBand band =>
    intro s
    simp only [exec, execSetBand]
    split
    · rename_i hb
      exact ⟨{ s with bands := { s.bands with
        band := ⟨band.toNat, hb⟩, stale := false, timer := startStale s.bands.stalePeriod } }, .ok, [], rfl, fun _ => rfl⟩
    · exact ⟨s, .range, [], rfl, fun _ => rfl⟩
  case readTable rank bank =>
    intro s
    simp only [exec, execReadTable]
    rcases rankOf rank with _ | r
    · exact ⟨s, .range, [], rfl, fun _ => rfl⟩
    · rcases bankOf bank with _ | b
      · exact ⟨s, .range, [], rfl, fun _ => rfl⟩
      · exact ⟨s, .ok, tableBody (s.ceiling r) (s.context r b), rfl, fun _ => rfl⟩
  case readQueue => exact responds_body (fun _ => .ok) State.queueBody (fun _ _ => rfl) fun _ _ => rfl
  case takeRefusal =>
    intro s
    have hl : ∀ m, (s.setMgmt m).refusals = s.refusals := fun _ => rfl
    simp only [exec, execTakeRefusal, hl]
    rcases s.refusals.log with _ | ⟨x, rest⟩
    · exact ⟨s, .empty, _, rfl, fun _ => rfl⟩
    · exact ⟨{ s with refusals := { s.refusals with log := rest } }, .ok, _, rfl, fun _ => rfl⟩
  case clearRank rank =>
    intro s
    simp only [exec, execClearRank]
    rcases rankOf rank with _ | r
    · exact ⟨s, .range, [], rfl, fun _ => rfl⟩
    · have hw : ∀ m, (s.setMgmt m).windowOn r = s.windowOn r := fun _ => rfl
      simp only [hw, discardRank_setMgmt]
      rcases s.windowOn r
      · exact ⟨s.discardRank r, .ok, [], (restage_moves _).mgmt, fun _ => rfl⟩
      · exact ⟨s, .busy, [], rfl, fun _ => rfl⟩
  case readRepair rank =>
    intro s
    simp only [exec, execReadRepair]
    rcases rankOf rank with _ | r
    · exact ⟨s, .range, [], rfl, fun _ => rfl⟩
    · exact ⟨s, .ok, repairBody (s.rank r).repairs, rfl, fun _ => rfl⟩
  case readStatistics => exact responds_body (fun _ => .ok) (fun s => statsBody s.queue.stats) (fun _ _ => rfl) fun _ _ => rfl
  case clearStatistics => exact responds_stores _ _ fun _ _ => rfl
  case unknown code => exact responds_reply .unknown
  case restart early =>
    refine responds_stores _ _ fun s m => ?_
    have ha : (s.setMgmt m).abortClose ((s.setMgmt m).instantSlot early) = (s.abortClose (s.instantSlot early)).setMgmt m := by
      unfold State.abortClose
      have he : (s.setMgmt m).engine = s.engine := rfl
      rw [he]
      rcases s.engine.window with _ | w
      · rfl
      · dsimp only
        rcases w.purpose with j | _ | _
        · dsimp only
          split <;> rfl
        · rfl
        · rfl
    dsimp only
    rw [ha]
    rfl
  case injectJob rank bank row cls =>
    intro s
    have hp : ∀ m r, (s.setMgmt m).params r = s.params r := fun _ _ => rfl
    have hc : ∀ m r b, (s.setMgmt m).context r b = s.context r b := fun _ _ _ => rfl
    have hh : ∀ m, (s.setMgmt m).heldCount = s.heldCount := fun _ => rfl
    have hl : ∀ m r, (s.setMgmt m).ceiling r = s.ceiling r := fun _ _ => rfl
    simp only [exec, execInjectJob, hp, hc, hh, hl]
    rcases rankOf rank with _ | r
    · exact ⟨s, .range, [], rfl, fun _ => rfl⟩
    rcases bankOf bank with _ | b
    · exact ⟨s, .range, [], rfl, fun _ => rfl⟩
    rcases classOf cls with _ | k
    · exact ⟨s, .range, [], rfl, fun _ => rfl⟩
    dsimp only
    split
    · exact ⟨s, .range, [], rfl, fun _ => rfl⟩
    split
    · exact ⟨s, .state, [], rfl, fun _ => rfl⟩
    split
    · exact ⟨s, .exists_, [], rfl, fun _ => rfl⟩
    split
    · exact ⟨s, .queueFull, [], rfl, fun _ => rfl⟩
    rcases (s.context r b).inject (s.ceiling r) row.toNat with _ | c
    · exact ⟨s, .tableFull, [], rfl, fun _ => rfl⟩
    · have hj : ∀ m, ((s.setMgmt m).modContext r b fun _ => c).acceptJob r b row.toNat k .injected (c.countOf row.toNat) =
          ((s.modContext r b fun _ => c).acceptJob r b row.toNat k .injected (c.countOf row.toNat)).setMgmt m :=
        fun m => acceptJob_setMgmt (s.modContext r b fun _ => c) r b row.toNat k .injected (c.countOf row.toNat) m
      simp only [State.injectInto, hj]
      generalize ht : (s.modContext r b fun _ => c).acceptJob r b row.toNat k .injected (c.countOf row.toNat) = t
      refine ⟨t, .ok, [byte s.queue.nextNumber.toNat, byte (flagBit 0
        (!(t.queue.list.any fun j => j.names r b row.toNat && j.number == s.queue.nextNumber)))], ?_, fun _ => rfl⟩
      rw [← ht]
      exact (acceptJob_moves _ _ _ _ _ _ _).mgmt
  case writeRepair rank bank row spare =>
    intro s
    have hr : ∀ m r, (s.setMgmt m).rank r = s.rank r := fun _ _ => rfl
    have hp : ∀ m r, (s.setMgmt m).params r = s.params r := fun _ _ => rfl
    simp only [exec, execWriteRepair, hr, hp]
    rcases rankOf rank with _ | r
    · exact ⟨s, .range, [], rfl, fun _ => rfl⟩
    rcases repairBankOf bank with _ | k
    · exact ⟨s, .range, [], rfl, fun _ => rfl⟩
    dsimp only
    split
    · exact ⟨s, .range, [], rfl, fun _ => rfl⟩
    split
    · exact ⟨s, .state, [], rfl, fun _ => rfl⟩
    split
    · exact ⟨s, .exists_, [], rfl, fun _ => rfl⟩
    split
    · exact ⟨s, .tableFull, [], rfl, fun _ => rfl⟩
    · exact ⟨s.modRank r fun u => { u with repairs := (s.rank r).repairs ++
        [{ bank := k, row := row.toNat, spare := spare.toNat }] }, .ok, [], rfl, fun _ => rfl⟩
  case eraseRepair rank bank row =>
    intro s
    have hr : ∀ m r, (s.setMgmt m).rank r = s.rank r := fun _ _ => rfl
    have hp : ∀ m r, (s.setMgmt m).params r = s.params r := fun _ _ => rfl
    simp only [exec, execEraseRepair, hr, hp]
    rcases rankOf rank with _ | r
    · exact ⟨s, .range, [], rfl, fun _ => rfl⟩
    rcases repairBankOf bank with _ | k
    · exact ⟨s, .range, [], rfl, fun _ => rfl⟩
    dsimp only
    split
    · exact ⟨s, .range, [], rfl, fun _ => rfl⟩
    split
    · exact ⟨s, .state, [], rfl, fun _ => rfl⟩
    rcases splitFirst _ (s.rank r).repairs with _ | ⟨before, x, behind⟩
    · exact ⟨s, .empty, [], rfl, fun _ => rfl⟩
    · exact ⟨s.modRank r fun u => { u with repairs := before ++ behind }, .ok, [], rfl, fun _ => rfl⟩
  case tServiceWrite | tUrgentWrite | tCeilingWrite | rowsWrite | sectionWrite | maskWrite | radiusWrite | windowRefreshesWrite |
      debtLimitWrite | grantLenWrite | refreshLenWrite | stepTimeWrite | coverTimeWrite =>
    refine responds_writeRank _ _ fun r => ?_
    repeat refine portBlind_refusedIf _ _ (fun _ _ => rfl) ?_
    exact portBlind_stores _ _ fun _ _ => rfl
  all_goals cases h

end Sys2Proof.Machine
end

