-- ==== Sys2Proof/Laws/Engine.lean ====
section
/-! SUPPORT. What an engine command's slot depends on, and which victim a window serves next. -/

namespace Sys2Proof.Machine

open Sys2Proof

/-- The search for two free slots looks at the beats on the port alone. -/
theorem freePair_congr {u v : RankUnit} (h : u.port = v.port) (n k : Nat) : u.freePair n k = v.freePair n k := by
  induction n generalizing k with
  | zero => rfl
  | succ n ih =>
    have hs : ∀ m, u.slotFree m = v.slotFree m := fun m => by simp only [RankUnit.slotFree, h]
    unfold RankUnit.freePair
    rw [hs, hs, ih]

/-- The slot of an engine command depends on the beats on the port and on the pins alone. -/
theorem engineSlot_congr {u v : RankUnit} (h : u.port = v.port) (k : u.portOut = v.portOut) (m : Nat) :
    u.engineSlot m = v.engineSlot m := by
  simp only [RankUnit.engineSlot, h, k, freePair_congr h]

/-- The next victim of a JOB window with a step still to be made. -/
theorem nextVictim_of_job {w : Window} {j : Job} (hp : w.purpose = .job j) (h : w.stepsDone < w.steps) :
    w.nextVictim = ((j.victims.getD [])[j.served + w.stepsDone]?).map fun v => (j, v) := by
  unfold Window.nextVictim
  rw [hp]
  simp only
  rw [if_pos h]

/-- A window with all its steps made serves no further victim. -/
theorem nextVictim_of_spent {w : Window} (h : w.steps ≤ w.stepsDone) : w.nextVictim = none := by
  unfold Window.nextVictim
  split
  · rw [if_neg (Nat.not_lt.mpr h)]
  · rfl
  · rfl

/-- The steps of a JOB window: the victims still to be served, at most the capacity. -/
theorem steps_of_job {w : Window} {j : Job} (hp : w.purpose = .job j) :
    w.steps = min ((j.victims.getD []).length - j.served) w.capacity := by
  unfold Window.steps Job.listed
  rw [hp]

end Sys2Proof.Machine
end

