-- ==== Sys2Proof/Laws/Ports.lean ====
section
/-! SUPPORT. What the sharing of a rank port's slots does: beats put off, the way made for a forwarded command, and the one beat
in each slot that results. -/

namespace Sys2Proof.Machine

open Sys2Proof

/-- Beats put off all stand at `e` or later. -/
theorem putOff_from (e : Nat) (l : List PortBeat) : ∀ q ∈ putOff e l, e ≤ q.slot := by
  induction l generalizing e with
  | nil => simp [putOff]
  | cons p rest ih =>
    intro q hq
    rcases List.mem_cons.mp hq with rfl | hq
    · exact Nat.le_max_right ..
    · exact (Nat.le_max_right p.slot e).trans ((Nat.le_succ _).trans (ih _ q hq))

/-- Beats put off stand in rising slots. -/
theorem putOff_rising (e : Nat) (l : List PortBeat) : (putOff e l).Pairwise fun p q => p.slot < q.slot := by
  induction l generalizing e with
  | nil => exact .nil
  | cons p rest ih => exact .cons (fun q hq => putOff_from (max p.slot e + 1) rest q hq) (ih _)

/-- Beats put off keep their words and their order. -/
theorem putOff_words (e : Nat) (l : List PortBeat) : (putOff e l).map PortBeat.word = l.map PortBeat.word := by
  induction l generalizing e with
  | nil => rfl
  | cons p rest ih => simp [putOff, ih]

/-- A command that has left before slot `k` stands before `k`. -/
theorem PortBeat.slot_lt_of_over {k : Nat} {p : PortBeat} (h : p.over k = true) : p.slot < k := by
  simp only [PortBeat.over, Bool.or_eq_true, Bool.and_eq_true, decide_eq_true_eq] at h
  omega

/-- Where every command placed leaves before slot `k`, the new one is placed behind them. -/
theorem makeWay_of_over {k : Nat} {pair port : List PortBeat} (h : ∀ p ∈ port, p.over k = true) :
    makeWay k pair port = port ++ pair := by
  have hn : port.filter (fun p => !p.over k) = [] := List.filter_eq_nil_iff.mpr fun p hp => by simp [h p hp]
  rw [makeWay, List.filter_eq_self.mpr h, hn, putOff, List.append_nil]

/-- Every beat of the port after way is made: one placed before, the command's own, or one put off behind it. -/
theorem mem_makeWay {k : Nat} {pair port : List PortBeat} {q : PortBeat} (h : q ∈ makeWay k pair port) :
    (q ∈ port ∧ q.slot < k) ∨ q ∈ pair ∨ k + 2 ≤ q.slot := by
  simp only [makeWay, List.mem_append, List.mem_filter] at h
  rcases h with (⟨hq, ho⟩ | hq) | hq
  · exact .inl ⟨hq, PortBeat.slot_lt_of_over ho⟩
  · exact .inr (.inl hq)
  · exact .inr (.inr (putOff_from _ _ q hq))

/-- A forwarded command leaves at most one beat in each slot of its port (R128). -/
theorem forwarding_legal {u : RankUnit} {n : Nat} (h : u.PortLegal n) (f : FirstBeat) (b : SecondBeat) :
    RankUnit.PortLegal { u with port := u.forwarding n f b } (n + 1) where
  apart := by
    have hs : ((u.port.filter (PortBeat.over (n + 2))).map PortBeat.slot).Nodup := h.apart.sublist (List.filter_sublist.map _)
    have hm : ((putOff (n + 2 + 2) (u.port.filter fun p => !p.over (n + 2))).map PortBeat.slot).Nodup :=
      List.pairwise_map.mpr ((putOff_rising ..).imp Nat.ne_of_lt)
    simp only [RankUnit.forwarding, makeWay, List.map_append]
    refine List.nodup_append.mpr ⟨List.nodup_append.mpr ⟨hs, ?_, ?_⟩, hm, ?_⟩
    · simp [forwardedBeats]
    · intro x hx y hy
      obtain ⟨p, hp, rfl⟩ := List.mem_map.mp hx
      have := PortBeat.slot_lt_of_over (List.mem_filter.mp hp).2
      simp only [forwardedBeats, List.map_cons, List.map_nil, List.mem_cons, List.not_mem_nil, or_false] at hy
      omega
    · intro x hx y hy
      obtain ⟨q, hq, rfl⟩ := List.mem_map.mp hy
      have hq := putOff_from _ _ q hq
      rcases List.mem_append.mp hx with hx | hx
      · obtain ⟨p, hp, rfl⟩ := List.mem_map.mp hx
        have := PortBeat.slot_lt_of_over (List.mem_filter.mp hp).2
        omega
      · simp only [forwardedBeats, List.map_cons, List.map_nil, List.mem_cons, List.not_mem_nil, or_false] at hx
        omega
  driven := by
    intro q hq
    have hd := h.driven q hq
    refine ⟨hd.1.trans (Nat.le_succ _), fun p hp => ?_⟩
    rcases mem_makeWay hp with ⟨hp, -⟩ | hp | hp
    · exact hd.2 p hp
    · simp only [forwardedBeats, List.mem_cons, List.not_mem_nil, or_false] at hp
      have := hd.1
      rcases hp with rfl | rfl <;> simp only <;> omega
    · have := hd.1
      omega

/-- The next beat of a port leaves it with at most one beat in each slot. -/
theorem emit_legal {u : RankUnit} {n : Nat} (h : u.PortLegal n) : (u.emit n).PortLegal n := by
  unfold RankUnit.emit
  split
  · next p rest hp =>
    split
    · next hle =>
      have ha := h.apart
      rw [hp, List.map_cons] at ha
      obtain ⟨hn, ha⟩ := List.nodup_cons.mp ha
      refine ⟨ha, fun q hq => ?_⟩
      cases hq
      exact ⟨hle, fun x hx he => hn (List.mem_map.mpr ⟨x, hx, he⟩)⟩
    · exact h
  · exact h

end Sys2Proof.Machine
end

