-- ==== Sys2Proof/Tests/Slice0.lean ====
section
/-! SUPPORT. Tests on fixed values: ill-formed terms refused, worked examples of spec/ computed by the model, and for each
obligation with hypotheses a state and operands that meet them. -/

namespace Sys2Proof.Tests

set_option Elab.async false

open Sys2Proof Sys2Proof.Machine

/-! ### Well-formedness -/

theorem test_unknown_refuses_defined_code : (Instr.unknown 0x0F#8).wellFormed = false := by decide

theorem test_unknown_admits_undefined_codes :
    ([0x00#8, 0x10#8, 0xFF#8].map fun c => (Instr.unknown c).wellFormed) = [true, true, true] := by decide

theorem test_requestDropped_refuses_whole_request : (Instr.requestDropped [0x02#8, 0x00#8, 0x00#8]).wellFormed = false := by
  decide

theorem test_requestDropped_admits_incomplete_requests :
    ([[], [0x02#8, 0x00#8], [0x03#8, 0, 0, 0, 0]].map fun b => (Instr.requestDropped b).wellFormed) = [true, true, true] := by
  decide

theorem test_unknownIdentifier_refuses_defined_identifier :
    (Instr.writeParameterUnknownIdentifier 0x0F#8 0 0).wellFormed = false := by decide

theorem test_unknownIdentifier_admits_undefined_identifier :
    (Instr.writeParameterUnknownIdentifier 0x10#8 0 0).wellFormed = true := by decide

theorem test_no_word_spells_a_command : decodeTableWord 8 0x01 = none := by decide

/-! ### States to test on -/

/-- The state a command leaves; the state itself if it should stop. -/
def after (c : Instr) (s : State) : State :=
  match exec c s with
  | .next t => t
  | .fault _ => s
  | .refused _ => s

/-- Both ranks tracking with the reference geometry and thresholds of spec/00, section 5, at band 0. -/
def ref : State :=
  let s := State.reset
  let f (u : RankUnit) : RankUnit :=
    { u with params := { u.params with track := true, mask := 5, tService := 64, tUrgent := 96, tCeiling := 128 } }
  { s with ranks := s.ranks.map f, bands := { s.bands with band := 0 } }

/-- The entry of `row` with its count and mark. -/
def entry (row count : Nat) (mark : Bool) : Entry := { row := row, count := count, inherited := false, mark := mark }

/-- The job of row 2050 of rank 0, bank 2, number 0 (spec/11, section 11.3). -/
def job (cls : JobClass) (state : JobState) (victims : Option (List Nat)) (served : Nat) : Job :=
  { number := 0, rank := 0, bank := 2, row := 2050, cls := cls, origin := .count, enqueued := 64
    state := state, victims := victims, served := served, partials := 0 }

/-- The victims of row 2050 (spec/03, section 3.8). -/
def four : List Nat := [2051, 2061, 2048, 2060]

/-- `s` with these jobs listed and counted. -/
def listing (s : State) (l : List Job) : State :=
  { s with queue := { s.queue with list := l, nextNumber := 1, stats := { s.queue.stats with enqueued := 1 } } }

/-- `s` with the table of rank 0, bank 2 holding `l`. -/
def table (s : State) (l : List Entry) : State := s.modContext 0 2 fun c => { c with entries := l }

/-- Row 2050 at count 64, marked, its job staged. -/
def hot (cls : JobClass) : State := listing (table ref [entry 2050 64 true]) [job cls .staged (some four) 0]

/-- A FIRST beat. -/
def beat (op : BitVec 4) (r : Rank) (b : Bank) : FirstBeat := { opcode := op, rank := r, bank := b, aux := 0 }

/-- The SECOND beat with even parity. -/
def even (f : FirstBeat) (operand : BitVec 17) : SecondBeat := engineSecond f operand

/-- `s` holding a FIRST beat. -/
def holding (s : State) (f : FirstBeat) : State := s.setHeld (some f)

/-- A whole command sent: its FIRST beat, then its row with the SECOND beat. -/
def send (c : SecondBeat → Instr) (op : BitVec 4) (r : Rank) (b : Bank) (operand : BitVec 17) (s : State) : State :=
  after (c (even (beat op r b) operand)) (after (.firstBeat (beat op r b)) s)

/-- A granted window on rank 0 with the job of row 2050, `n` steps made. -/
def windowed (n : Nat) (open_ : Bool) (served : Nat) : State :=
  let s := table ref [entry 2050 64 true]
  let w : Window :=
    { rank := 0, kind := .granted, purpose := .job (job .normal .running (some four) served), length := 200, capacity := 4
      stepTime := 6, start := 0, stepsDone := n, stepOpen := open_ }
  { (s.modRank 0 fun u => { u with state := .service, bankOpen := u.bankOpen.set 2 open_ }) with
    queue := { s.queue with nextNumber := 1, stats := { s.queue.stats with enqueued := 1 } }
    engine := { s.engine with window := some w } }

/-- A window without a job. -/
def jobless (purpose : Purpose) : State :=
  let w : Window :=
    { rank := 0, kind := .granted, purpose := purpose, length := 200, capacity := 4
      stepTime := 6, start := 0, stepsDone := 0, stepOpen := false }
  { (ref.modRank 0 fun u => { u with state := .service, debt := 1 }) with engine := { ref.engine with window := some w } }

/-- Rank 0 asleep with a residency. -/
def asleep (residency : Nat) : State := ref.modRank 0 fun u => { u with state := .asleep, coverage := .running residency }

/-- Rank 0 with debt. -/
def owing (n : Nat) (s : State) : State := s.modRank 0 fun u => { u with debt := n }

/-- Rank 0 with TRACK OFF. -/
def untracked : State := ref.modRank 0 fun u => { u with params := { u.params with track := false } }

/-- Sixteen held jobs of rank 1. -/
def sixteen : List Job :=
  (List.range 16).map fun k => { job .normal .waiting (some four) 0 with rank := 1, row := k, number := BitVec.ofNat 8 k }

/-- The queue full. -/
def full (s : State) : State := listing s sixteen

/-- The repair list of spec/03, section 3.8. -/
def repairs : List RepairRecord :=
  [{ bank := .one 3, row := 3076, spare := 7 }, { bank := .all, row := 500, spare := 8 }]

/-- The codes and bytes a read returns. -/
def answer (c : Instr) (s : State) (n : Nat) : List Byte := (after (.responseRead n) (after c s)).mgmt.mda

/-! ### Worked examples and one or two small facts for each row -/

theorem test_victims_ordinary :
    ([2050, 3077, 65530].map fun row => victimsOf (ref.params 0) [] 2 row) =
      [[2051, 2061, 2048, 2060], [3076, 3079], [65531, 65528]] := by decide +kernel

theorem test_victims_repaired :
    ([(3, 3077), (2, 3077), (3, 3076), (3, 500), (4, 500)].map fun x : Bank × Nat => victimsOf (ref.params 0) repairs x.1 x.2) =
      [[3079], [3076, 3079], [500], [3076], []] := by decide +kernel

theorem test_derated_thresholds :
    ([0, 1, 2, 3].map fun b : Fin 4 => (derate 64 b, derate 96 b, derate 128 b, derate 1536 b)) =
      [(64, 96, 128, 1536), (48, 72, 96, 1152), (32, 48, 64, 768), (16, 24, 32, 384)] := by decide +kernel

theorem test_first_beat_word : firstWord { opcode := 0xA, rank := 1, bank := 5, aux := 0x1FF } = 0b01_1010_1_0101_111111111#20 := by
  decide +kernel

theorem test_second_beat_word : secondWord { parity := true, operand := 0x10001 } = 0b10_1_10000000000000001#20 := by
  decide +kernel

theorem test_firstBeat_held : (after (.firstBeat (beat 1 0 2)) ref).link.held = some (beat 1 0 2) := by decide +kernel

theorem test_framingFault_lone_second :
    ((after (.framingFault (.second { parity := false, operand := 0 })) ref).refusals.log.map (·.report)) =
      [{ reason := .framing, source := none, bank := none, operand := none }] := by decide +kernel

theorem test_framingFault_held_beat :
    ((after (.framingFault .invalid) (holding ref (beat 2 0 5))).refusals.log.map (·.report)) =
      [{ reason := .framing, source := some (2, 0), bank := some 5, operand := none }] := by decide +kernel

theorem test_openRow_creates_entry :
    let t := send .openRow opOpen 0 2 2050 ref
    t.isOpen 0 2 = true ∧ (t.context 0 2).entries = [entry 2050 1 false] ∧ ((t.rank 0).port.map (·.slot)) = [3, 4] := by
  decide +kernel

theorem test_openRow_at_service_level_stages_job :
    let t := send .openRow opOpen 0 2 2050 (table ref [entry 2050 63 false])
    t.queue.list = [job .normal .staged (some four) 0] ∧ (t.context 0 2).entries = [entry 2050 64 true] ∧
      t.serviceRequest 0 = true := by decide +kernel

theorem test_closeBank : (send .closeBank opClose 0 2 0 (ref.setOpen 0 2 true)).isOpen 0 2 = false := by decide +kernel

theorem test_closeAll :
    (send .closeAll opCloseAll 0 0 0 ((ref.setOpen 0 2 true).setOpen 0 15 true)).anyOpen 0 = false := by decide +kernel

theorem test_read_closes_after : (send .read opRead 0 2 0x10000 (ref.setOpen 0 2 true)).isOpen 0 2 = false := by
  decide +kernel

theorem test_read_of_closed_bank_reports_column :
    ((send .read opRead 1 4 0x10008 ref).refusals.log.map (·.report)) =
      [{ reason := .bankClosed, source := some (4, 1), bank := some 4, operand := some 8 }] := by decide +kernel

theorem test_write_keeps_bank_open : (send .write opWrite 0 2 0xFFFF (ref.setOpen 0 2 true)).isOpen 0 2 = true := by
  decide +kernel

theorem test_refresh_counts :
    let t := send .refresh opRefresh 0 0 0 ref
    (t.rank 0).refreshCount = 1 ∧ (t.rank 0).port.length = 2 := by decide +kernel

theorem test_refresh_converts_urgent_job :
    let t := send .refresh opRefresh 0 0 0 (hot .urgent)
    (t.rank 0).state = .service ∧ (t.rank 0).debt = 1 ∧ (t.rank 0).refreshCount = 1 ∧ t.queue.list = [] ∧
      t.queue.stats.converted = 1 ∧ (t.engine.window.map fun w => (w.kind, w.capacity, w.stepOpen)) = some (.converted, 4, true) := by
  decide +kernel

theorem test_sleepEnter :
    let t := send .sleepEnter opSleepEnter 0 0 0 (hot .normal)
    (t.rank 0).state = .asleep ∧ (t.rank 0).coverage = .running 0 ∧ t.queue.list = [job .normal .waiting (some four) 0] := by
  decide +kernel

theorem test_sleepExit_short_keeps_entry :
    let t := send .sleepExit opSleepExit 0 0 0 (table (asleep 64) [entry 2050 40 false])
    (t.rank 0).state = .awake ∧ (t.context 0 2).entries = [entry 2050 40 false] := by decide +kernel

theorem test_sleepExit_covered_clears :
    let t := send .sleepExit opSleepExit 0 0 0 (owing 1 (table (asleep 65) [entry 2050 40 false]))
    (t.rank 0).coverage = .stopped ∧ (t.context 0 2).entries = [] ∧ (t.rank 0).debt = 0 := by decide +kernel

theorem test_modeSet_forwarded : ((send .modeSet opModeSet 1 0 7 ref).rank 1).port.length = 2 := by decide +kernel

theorem test_modeGet_forwarded :
    ((send .modeGet opModeGet 0 0 0 ref).rank 0).port =
      [{ slot := 3, word := firstWord (beat opModeGet 0 0) }, { slot := 4, word := secondWord (even (beat opModeGet 0 0) 0) }] := by
  decide +kernel

theorem test_serviceGrant_runs_job :
    let t := send .serviceGrant opServiceGrant 0 0 0 (hot .normal)
    t.active = some (job .normal .running (some four) 0) ∧ t.serviceRequest 0 = false ∧
      (t.context 0 2).entries = [entry 2050 64 true, entry 2051 1 false] := by decide +kernel

theorem test_serviceGrant_repays :
    let t := send .serviceGrant opServiceGrant 0 0 0 (owing 1 ref)
    (t.engine.window.map Window.purpose) = some .repay ∧ (t.rank 0).port.length = 2 := by decide +kernel

theorem test_undefinedOpcode :
    ((send .undefinedOpcode 0xB 0 9 1 ref).refusals.log.map (·.report)) =
      [{ reason := .undefined, source := some (0xB, 0), bank := none, operand := none }] := by decide +kernel

theorem test_portEmit :
    let s := send .openRow opOpen 0 2 2050 ref
    let t := after (.portEmit 0) { s with clock := { s.clock with slot := 3 } }
    (t.rank 0).port.length = 1 ∧ t.portWord 0 3 = firstWord (beat opOpen 0 2) ∧ t.portWord 0 4 = 0 := by decide +kernel

theorem test_alertPulse_at_distance :
    let s := send .undefinedOpcode 0xB 0 0 0 ref
    let t := after .alertPulse { s with clock := { s.clock with slot := 7 } }
    s.refusals.schedule = [7] ∧ t.refusals.schedule = [] ∧ t.alertLow 7 = true ∧ t.alertLow 8 = false := by decide +kernel

theorem test_engineOpen_second_victim :
    ((after (.engineOpen false) (windowed 1 false 0)).context 0 2).entries = [entry 2050 64 true, entry 2061 1 false] := by
  decide +kernel

theorem test_engineClose :
    let t := after (.engineClose false) (windowed 1 true 0)
    t.isOpen 0 2 = false ∧ (t.engine.window.map Window.stepsDone) = some 2 ∧ t.clock.time = 12 := by decide +kernel

theorem test_windowExpiry_done :
    let t := after .windowExpiry (windowed 4 false 0)
    (t.rank 0).state = .awake ∧ t.queue.stats.done = 1 ∧ (t.context 0 2).entries = [entry 2050 0 false] ∧
      t.engine.newest = some { kind := .done, windowKind := some .granted, rank := 0, job := some 0, served := 4, listed := 4 } := by
  decide +kernel

theorem test_windowExpiry_repaid :
    let t := after .windowExpiry (jobless .repay)
    (t.rank 0).debt = 0 ∧ t.queue.stats.repaid = 1 := by decide +kernel

theorem test_trackingWindowClose :
    ((after (.trackingWindowClose 0) (table ref [entry 100 40 false, entry 402 1 true, entry 1111 1 false])).context 0 2).entries =
      [entry 100 20 false, entry 402 0 true] := by decide +kernel

theorem test_stalenessExpiry :
    let t := after .stalenessExpiry { ref with bands := { ref.bands with timer := .running 32 32 } }
    t.bands.stale = true ∧ t.effectiveBand = 3 ∧ t.ceiling 0 = 32 := by decide +kernel

theorem test_coverageTick : ((after .coverageTick (asleep 64)).rank 0).coverage = .running 65 := by decide +kernel

theorem test_resetFalling_aborts :
    let t := after .resetFalling (windowed 2 true 0)
    (t.rank 1).state = .resetHold ∧ t.queue.stats.discarded = 1 ∧
      t.engine.newest = some { kind := .aborted, windowKind := some .granted, rank := 0, job := some 0, served := 2, listed := 4 } := by
  decide +kernel

theorem test_resetRising : ((after .resetRising (after .resetFalling ref)).rank 1).state = .awake := by decide +kernel

theorem test_powerOnReset_address : (after (.powerOnReset false 2) ref).mgmt.address = 0x5A#7 := by decide +kernel

theorem test_status_body :
    (answer .status (hot .normal) 22).take 15 = [0x00, 0x00, 0x05, 0x00, 0x00, 0x00, 0x01, 0x00, 0x01, 0x00, 0x02, 0x00, 0x08, 0x02, 0x40] := by
  decide +kernel

theorem test_status_history :
    ((answer .status { ref with engine :=
        { window := none
          newest := some { kind := .done, windowKind := some .granted, rank := 0, job := some 43, served := 2, listed := 4 }
          previous := none } } 23).drop 15).take 4 = [0x80, 0x05, 0x2B, 0x24] := by decide +kernel

theorem test_readParameter : answer (.readParameter 0x05 0x00) ref 6 = [0x00, 0x05, 0x00, 0x00, 0x00, 0x40] := by decide +kernel

theorem test_trackWrite_discards :
    let t := after (.trackWrite 0 1) (hot .normal)
    t.queue.list = [] ∧ t.queue.stats.discarded = 1 ∧ (t.context 0 2).entries = [] := by decide +kernel

theorem test_rowsWrite_refused_while_tracking : (after (.rowsWrite 0 32768) ref).mgmt.response.map (·.code) = some .state := by
  decide +kernel

theorem test_rowsWrite_must_exceed_repairs :
    (after (.rowsWrite 0 32768) (untracked.modRank 0 fun u =>
      { u with repairs := [{ bank := .all, row := 32768, spare := 0 }] })).mgmt.response.map (·.code) = some .range := by decide +kernel

theorem test_sectionWrite : ((after (.sectionWrite 0 2048) untracked).params 0).section_ = 2048 := by decide +kernel

theorem test_maskWrite :
    ((after (.maskWrite 0 65535) untracked).params 0).mask = 65535 ∧ ((after (.maskWrite 0 65536) untracked).params 0).mask = 5 := by
  decide +kernel

theorem test_radiusWrite : ((after (.radiusWrite 0 1) untracked).params 0).radius = 1 := by decide +kernel

theorem test_tServiceWrite :
    ((after (.tServiceWrite 0 95) ref).params 0).tService = 95 ∧ ((after (.tServiceWrite 0 96) ref).params 0).tService = 64 := by
  decide +kernel

theorem test_tUrgentWrite :
    ((after (.tUrgentWrite 0 127) ref).params 0).tUrgent = 127 ∧ ((after (.tUrgentWrite 0 128) ref).params 0).tUrgent = 96 := by
  decide +kernel

theorem test_tCeilingWrite :
    ((after (.tCeilingWrite 0 4095) ref).params 0).tCeiling = 4095 ∧ ((after (.tCeilingWrite 0 96) ref).params 0).tCeiling = 128 := by
  decide +kernel

theorem test_windowRefreshesWrite :
    let t := after (.windowRefreshesWrite 0 1024) (ref.modRank 0 fun u => { u with refreshCount := 9 })
    (t.params 0).windowRefreshes = 1024 ∧ (t.rank 0).refreshCount = 0 := by decide +kernel

theorem test_debtLimitWrite_below_debt :
    (after (.debtLimitWrite 0 1) (owing 2 ref)).mgmt.response.map (·.code) = some .state := by decide +kernel

theorem test_grantLenWrite : ((after (.grantLenWrite 0 1000) ref).params 0).grantLen = 1000 := by decide +kernel

theorem test_refreshLenWrite : ((after (.refreshLenWrite 0 9) ref).params 0).refreshLen = 35 := by decide +kernel

theorem test_stepTimeWrite :
    ((after (.stepTimeWrite 0 35) ref).params 0).stepTime = 35 ∧ ((after (.stepTimeWrite 0 36) ref).params 0).stepTime = 6 := by
  decide +kernel

theorem test_coverTimeWrite : ((after (.coverTimeWrite 1 255) ref).params 1).coverTime = 255 := by decide +kernel

theorem test_stalePeriodWrite :
    (after (.stalePeriodWrite 0xFF 0) ref).bands.timer = .stopped ∧ (after (.stalePeriodWrite 0 255) ref).bands.timer = .running 255 0 := by
  decide +kernel

theorem test_refusalDistanceWrite : (after (.refusalDistanceWrite 0xFF 15) ref).refusals.distance = 15 := by decide +kernel

theorem test_setBand : (after (.setBand 2) { ref with bands := { ref.bands with stale := true } }).bands =
    { band := 2, stale := false, stalePeriod := 32, timer := .running 32 0 } := by decide +kernel

theorem test_readTable :
    answer (.readTable 0 2) (table ref [entry 2050 300 true]) 13 = [0, 0, 0, 0, 0, 0, 1, 0, 0x08, 0x02, 0x01, 0x2C, 0x06] := by
  decide +kernel

theorem test_readQueue :
    answer .readQueue (hot .normal) 26 =
      [0, 1, 0, 0x02, 0, 0x08, 0x02, 0x14, 0, 0x40, 4, 0, 0, 0, 0x08, 0x03, 0, 0x08, 0x0D, 0, 0x08, 0x00, 0, 0x08, 0x0C, 0] := by
  decide +kernel

theorem test_takeRefusal :
    answer .takeRefusal (send .read opRead 1 4 8 ref) 15 =
      [0, 0, 0, 0, 1, 0, 0, 8, 7, 0x41, 4, 0, 0, 8, 0xFF] := by decide +kernel

theorem test_injectJob :
    let t := after (.injectJob 0 4 3077 1) ref
    t.queue.list.map (fun j => (j.row, j.cls, j.state, j.victims)) = [(3077, .urgent, .staged, some [3076, 3079])] ∧
      (t.context 0 4).entries = [entry 3077 0 true] := by decide +kernel

theorem test_injectJob_retires_empty :
    let s := ref.modRank 0 fun u => { u with repairs := repairs, params := { u.params with radius := 1 } }
    answer (.injectJob 0 3 3077 1) s 4 = [0, 0, 1, 0xFF] := by decide +kernel

theorem test_clearRank :
    let t := after (.clearRank 0) (hot .normal)
    t.queue.list = [] ∧ (t.params 0).track = true ∧ t.queue.stats.discarded = 1 := by decide +kernel

theorem test_writeRepair :
    let s := untracked.modRank 0 fun u => { u with repairs := repairs }
    (after (.writeRepair 0 3 9000 8) s).mgmt.response.map (·.code) = some .exists_ ∧
      ((after (.writeRepair 0 3 1200 9) s).rank 0).repairs = repairs ++ [{ bank := .one 3, row := 1200, spare := 9 }] := by
  decide +kernel

theorem test_eraseRepair :
    let s := untracked.modRank 0 fun u => { u with repairs := repairs }
    (after (.eraseRepair 0 3 500) s).mgmt.response.map (·.code) = some .empty ∧
      ((after (.eraseRepair 0 0x10 500) s).rank 0).repairs = [{ bank := .one 3, row := 3076, spare := 7 }] := by decide +kernel

theorem test_readRepair :
    answer (.readRepair 0) (untracked.modRank 0 fun u => { u with repairs := repairs }) 12 =
      [0, 2, 3, 0, 0x0C, 0x04, 7, 0x10, 0, 0x01, 0xF4, 8] := by decide +kernel

theorem test_readStatistics : (answer .readStatistics (hot .normal) 38).take 6 = [0, 0, 0, 0, 1, 0] := by decide +kernel

theorem test_clearStatistics :
    (after .clearStatistics { hot .normal with queue := { (hot .normal).queue with stats := { Stats.zero with done := 9 } } }).queue.stats =
      { Stats.zero with enqueued := 1 } := by decide +kernel

/-- A port with whole commands placed from these slots. -/
def portAt (slots : List Nat) : List PortBeat :=
  (slots.map fun k => beatPair k (beat opClose 0 2) (even (beat opClose 0 2) 0)).flatten

/-- RESTART at a step boundary in slot 10, and a command accepted in slot 11 or 12: the engine commands give way in order. -/
theorem test_engine_commands_give_way :
    let port (n : Nat) : List Nat :=
      (({ ref.rank 0 with port := portAt [10, 12, 14] } : RankUnit).forwarding n (beat opClose 0 2) (even (beat opClose 0 2) 0)).map
        PortBeat.slot
    port 11 = [10, 11, 13, 14, 15, 16, 17, 18] ∧ port 12 = [10, 11, 12, 13, 14, 15, 16, 17] ∧
      port 14 = [10, 11, 12, 13, 14, 15, 16, 17] := by decide +kernel

theorem test_restart_drives_close :
    let t := after (.restart false) (windowed 1 true 0)
    (t.rank 0).port.length = 2 ∧ (t.params 0).track = false ∧ t.engine.window = none ∧
      t.mgmt.response.map (·.code) = some .ok := by decide +kernel

theorem test_unknown : answer (.unknown 0x10) ref 2 = [0x08, 0xFF] := by decide +kernel

theorem test_requestDropped : (after (.requestDropped [0x03, 0]) (after .status ref)).mgmt.response = none := by decide +kernel

theorem test_writeParameterUnknownIdentifier : answer (.writeParameterUnknownIdentifier 0x10 0 0) ref 1 = [0x02] := by
  decide +kernel

/-! ### The two-wire bus: bytes written out from spec/12, section 12.2 -/

/-- The state a run of bus events leaves; the state itself if it should stop. -/
def onBus (l : List BusEvent) (s : State) : State :=
  match busRun l s with
  | .next t => t
  | .fault _ => s
  | .refused _ => s

theorem test_bytes_spell_requests :
    ([[0x01], [0x03, 0x0D, 1, 0, 0, 0xFF], [0x08, 0, 4, 0, 0x0C, 0x05, 1], [0x0A, 0, 3, 0, 0x23, 0x28, 8], [0x0F], [0x10],
      [0x03, 0x10, 0, 0, 0, 7], [0x08, 0, 4, 0, 0x0C, 0x05]].map (requestCommand false)) =
      [some .status, some (.coverTimeWrite 1 255), some (.injectJob 0 4 3077 1), some (.writeRepair 0 3 9000 8),
       some (.restart false), some (.unknown 0x10), some (.writeParameterUnknownIdentifier 0x10 0 7), none] := by decide +kernel

theorem test_request_takes_effect_at_its_last_byte :
    let write : List BusEvent := [.start, .byte 0xB0 false, .byte 0x03 false, .byte 0x0D false, .byte 1 false, .byte 0 false, .byte 0 false]
    let before := onBus write (after .status ref)
    (before.params 1).coverTime = 64 ∧ before.mgmt.response = none ∧
      ((onBus (write ++ [.byte 0xFF false]) ref).params 1).coverTime = 255 := by decide +kernel

theorem test_status_read_on_the_bus :
    let t := onBus [.start, .byte 0xB0 false, .byte 0x01 false, .start, .byte 0xB1 false, .read true, .read true, .read false, .stop]
      (hot .normal)
    t.mgmt.mda = [0x00, 0x00, 0x05] ∧ t.mgmt.response = none ∧ t.mgmt.bus = .free := by decide +kernel

theorem test_acknowledge_bits :
    ([[.start, .byte 0xB0 false], [.start, .byte 0xB1 false], [.start, .byte 0x00 false], [.start, .byte 0xB2 false],
      [.start, .byte 0xB0 false, .byte 0x10 false], [.start, .byte 0xB0 false, .byte 0x10 false, .byte 0 false]].map
        fun l : List BusEvent => (onBus l ref).mgmt.ack) = [true, true, false, false, true, false] := by decide +kernel

theorem test_request_goes_on_through_reset :
    let t := onBus [.byte 0x02 false] (after .resetFalling (onBus [.start, .byte 0xB0 false, .byte 0x04 false] ref))
    t.bands.band = 2 ∧ t.mgmt.response.map (·.code) = some .ok ∧ (t.rank 0).state = .resetHold := by decide +kernel

theorem test_dropped_request_empties_the_buffer :
    let t := onBus [.start, .byte 0xB0 false, .byte 0x02 false, .stop] (after .status ref)
    t.mgmt.response = none ∧ t.mgmt.request = none ∧
      (onBus [.start, .byte 0xB0 false, .stop] (after .status ref)).mgmt.response.isSome = true := by decide +kernel

/-! ### Statistics of one refusal log: spec/08, section 8.9 -/

theorem test_adjacent_pulses : pulseSlot [12] 6 6 = 13 ∧ pulseSlot [12, 13] 9 6 = 15 ∧ pulseSlot [19] 16 2 = 20 := by
  decide +kernel

/-! ### States and operands that meet the hypotheses of each obligation -/

/-- A held FIRST beat is completed by its even SECOND beat. -/
theorem completes (s : State) (f : FirstBeat) (operand : BitVec 17) (h : s.link.resetHigh = true)
    (p : (ones (firstWord f) + ones (secondWord (even f operand))) % 2 = 0) :
    (holding s f).Completes f.opcode f (even f operand) := ⟨h, rfl, rfl, p⟩

theorem witness_StepRunsFrontCommand :
    ({ ref with pending := [.status, .readQueue] } : State).pending = .status :: [.readQueue] := rfl

theorem witness_EmptyQueuePassesIdleSlot :
    (ref.pending = [] ∧ ref.link.held = none) ∧
    ((after .resetFalling ref).pending = [] ∧ (after .resetFalling ref).link.resetHigh = false) ∧
    ((holding ref (beat 1 0 2)).pending = [] ∧ (holding ref (beat 1 0 2)).link.held = some (beat 1 0 2)) ∧
    (ref.wire = [] ∧ (after .resetFalling ref).wire = [] ∧ (holding ref (beat 1 0 2)).wire = []) ∧
    ({ ref with wire := [.start, .stop] } : State).wire = .start :: [.stop] := by decide +kernel

theorem witness_beats :
    ((after .resetFalling ref).link.resetHigh = false) ∧
    (ref.link.resetHigh = true ∧ ref.link.held = none) ∧
    ((holding ref (beat 1 0 2)).link.resetHigh = true ∧ (holding ref (beat 1 0 2)).link.held = some (beat 1 0 2)) := by decide +kernel

/-- A state, a held beat and a SECOND beat for each of the nine reasons other than ROW HOLD. -/
theorem witness_FirstFailingCheckRefuses_reasons :
    let busy : State := { ref with engine := (windowed 0 false 0).engine }
    ([(ref, beat 1 0 2, { even (beat 1 0 2) 5 with parity := !(even (beat 1 0 2) 5).parity }),
      (ref, beat 0 0 0, even (beat 0 0 0) 0),
      (asleep 1, beat 1 0 2, even (beat 1 0 2) 5),
      (ref, beat 8 0 0, even (beat 8 0 0) 0),
      (windowed 1 false 0, beat 2 0 0, even (beat 2 0 0) 0),
      (busy, beat 12 1 0, even (beat 12 1 0) 0),
      (ref.setOpen 0 2 true, beat 1 0 2, even (beat 1 0 2) 5),
      (ref, beat 5 0 2, even (beat 5 0 2) 0),
      (ref.setOpen 0 15 true, beat 6 0 0, even (beat 6 0 0) 0)].map
        fun x : State × FirstBeat × SecondBeat => (holding x.1 x.2.1).firstFailure x.2.1 x.2.2) =
      [some .parity, some .undefined, some .asleep, some .notAsleep, some .window, some .engineBusy, some .bankOpen,
       some .bankClosed, some .bankOpen] := by decide +kernel

theorem witness_FirstFailingCheckRefuses_undefined :
    ∀ op ∈ ([0, 11, 13, 15] : List (BitVec 4)), ∃ (s : State) (b : SecondBeat), s.Completes op (beat op 0 3) b ∧
      ((beat op 0 3).opcode.toNat = 0 ∨ (beat op 0 3).opcode.toNat = 11 ∨ 13 ≤ (beat op 0 3).opcode.toNat) := by
  intro op h
  refine ⟨holding ref (beat op 0 3), even (beat op 0 3) 0, completes ref _ 0 rfl ?_, ?_⟩
  all_goals revert h; revert op; decide +kernel

/-- A row under another row's name, and FRAMING_FAULT, each with the SECOND beat of a held OPEN. -/
theorem witness_FirstFailingCheckRefuses_rows :
    let b := even (beat 1 0 2) 5
    ([.openRow b, .closeBank b, .undefinedOpcode b, .framingFault (.second b)].map secondBeatOf) = List.replicate 4 (some b) ∧
    (holding ref (beat 1 0 2)).link.held = some (beat 1 0 2) ∧ heldRow (beat 1 0 2) b = .openRow b := by decide +kernel

theorem witness_RefusalTakesNumberPulseAndRecord :
    let r := (ref.report 0 loneReport).refusals.log
    ({ ref.refusals with log := (List.replicate 7 r).flatten } : Refusals).log.length < 8 ∧
    8 ≤ ({ ref.refusals with log := (List.replicate 8 r).flatten } : Refusals).log.length := by decide +kernel

/-- Row 2050 of rank 0, bank 2 held: its entry stands at the ceiling. -/
def held (mark : Bool) : State := holding (table ref [entry 2050 128 mark]) (beat opOpen 0 2)

theorem witness_Legal : ∀ r, (ref.params r).Legal := by
  intro r
  constructor <;> revert r <;> decide +kernel

theorem witness_RowHoldRefusesAndEvaluates :
    (∀ mark, (held mark).Completes opOpen (beat opOpen 0 2) (even (beat opOpen 0 2) 2050)) ∧
    (∀ mark, ((held mark).rank 0).state = .awake ∧ (held mark).isOpen 0 2 = false ∧
      ((held mark).context 0 2).find ((even (beat opOpen 0 2) 2050).operand.toNat % ((held mark).params 0).rows) =
        some (entry 2050 128 mark) ∧ (held mark).ceiling 0 ≤ 128) ∧
    (∀ j ∈ (listing (held true) [job .urgent .staged (some four) 0]).queue.list, j.names 0 2 2050 = true → j.cls = .urgent) ∧
    (∃ j ∈ (listing (held true) [job .normal .staged (some four) 0]).queue.list, j.names 0 2 2050 = true ∧ j.cls = .normal) ∧
    16 ≤ (full (held false)).heldCount ∧ (held false).heldCount < 16 := by
  refine ⟨fun mark => completes _ _ _ rfl (by decide +kernel), ?_⟩
  decide +kernel

/-- A command to rank 0, bank 2 completes, the rank AWAKE, the bank as given. -/
theorem witness_accepted (op : BitVec 4) (bank : Bool)
    (h : op ∈ [opOpen, opClose, opCloseAll, opRead, opWrite, opRefresh, opSleepEnter, opModeSet, opModeGet, opServiceGrant]) :
    let s := holding (ref.setOpen 0 2 bank) (beat op 0 2)
    s.Completes op (beat op 0 2) (even (beat op 0 2) 0) ∧ (s.rank 0).state = .awake ∧ s.isOpen 0 2 = bank ∧
      s.rowHeld 0 2 0 = false ∧ s.engine.window = none := by
  refine ⟨completes _ _ _ rfl ?_, ?_⟩
  · revert h; revert op; decide +kernel
  · refine ⟨rfl, ?_, rfl, rfl⟩
    cases bank <;> rfl

/-- A full table of twelve entries, of which row 3 and row 7 have the smallest count. -/
def twelve (mark : Bool) : List Entry :=
  (List.range 12).map fun k => entry k (if k = 3 ∨ k = 7 then 1 else 20) mark

theorem witness_CountedActivationUpdatesTable :
    let s := table ref (twelve false)
    (untracked.params 0).track = false ∧ (ref.params 0).track = true ∧
    ((s.context 0 2).entries = (twelve false).take 3 ++ entry 3 1 false :: (twelve false).drop 4 ∧
      ∀ x ∈ (twelve false).take 3 ++ (twelve false).drop 4, x.row ≠ 3) ∧
    ((∀ x ∈ (s.context 0 2).entries, x.row ≠ 50) ∧ (s.context 0 2).entries.length = 12 ∧ (entry 3 1 false).count < s.ceiling 0 ∧
      (∀ x ∈ (twelve false).take 3, x.mark = false → x.count < s.ceiling 0 → (entry 3 1 false).count < x.count) ∧
      (∀ x ∈ (twelve false).drop 4, x.mark = false → x.count < s.ceiling 0 → (entry 3 1 false).count ≤ x.count)) ∧
    ((table ref (twelve false).tail).context 0 2).entries.length < 12 ∧
    (((table ref (twelve true)).context 0 2).entries.length = 12 ∧
      ∀ x ∈ ((table ref (twelve true)).context 0 2).entries, x.mark = true ∨ ref.ceiling 0 ≤ x.count) := by decide +kernel

theorem witness_EvaluationDecides :
    let at_ (count : Nat) (mark : Bool) : State := table ref [entry 2050 count mark]
    ((at_ 63 false).context 0 2).find 9 = none ∧
    (∀ x ∈ ([(63, false), (64, false), (95, false), (96, false), (95, true), (96, true)] : List (Nat × Bool)),
      ((at_ x.1 x.2).context 0 2).find 2050 = some (entry 2050 x.1 x.2)) ∧
    ref.serviceLevel 0 = 64 ∧ ref.urgentLevel 0 = 96 ∧ 16 ≤ (full (at_ 64 false)).heldCount ∧ (at_ 64 false).heldCount < 16 ∧
    (∀ j ∈ (listing (at_ 96 true) [job .urgent .staged (some four) 0]).queue.list, j.names 0 2 2050 = true → j.cls = .urgent) ∧
    (∃ j ∈ (listing (at_ 96 true) [job .normal .staged (some four) 0]).queue.list, j.names 0 2 2050 = true ∧ j.cls = .normal) := by
  decide +kernel

theorem witness_MillisecondTimers :
    ({ ref with bands := { ref.bands with timer := .running 32 32 } } : State).bands.timer = .running 32 32 ∧ 32 ≤ 32 := by
  decide +kernel

theorem witness_VictimListInOrder :
    coveringRow repairs 3 3077 = none ∧ coveringRow repairs 3 3076 = some { bank := .one 3, row := 3076, spare := 7 } := by
  decide +kernel

theorem witness_VictimListsAreSound :
    let u : RankUnit := { ref.rank 0 with repairs := repairs }
    u.params.Legal ∧ u.RepairsLegal ∧ 65535 < u.params.rows := by
  refine ⟨witness_Legal 0, ?_, by decide +kernel⟩
  constructor <;> decide +kernel

/-- An URGENT job of row 1, then NORMAL jobs of rows 2 and 2050. -/
def three (state : JobState) (victims : Option (List Nat)) : List Job :=
  [{ job .urgent state victims 0 with row := 1 }, { job .normal .waiting none 0 with row := 2 }, job .normal .waiting none 0]

theorem witness_NewJobTakesItsPlace :
    (listing ref (three .staged (some four))).queue.list =
      (three .staged (some four)).take 1 ++ (three .staged (some four)).drop 1 ∧
    (∀ x ∈ (three .staged (some four)).take 1, x.cls = .urgent) ∧
    (∀ x ∈ (three .staged (some four)).drop 1, x.cls = .normal) := by decide +kernel

theorem witness_PromotionMovesBehindUrgent :
    let l := three .staged (some four)
    (listing ref l).queue.list = l.take 1 ++ (l.drop 1).take 1 ++ job .normal .waiting none 0 :: [] ∧
    (∀ x ∈ l.take 1, x.cls = .urgent) ∧ (∀ x ∈ (l.drop 1).take 1 ++ job .normal .waiting none 0 :: [], x.cls = .normal) ∧
    (job .normal .waiting none 0).names 0 2 2050 = true ∧ (∀ x ∈ (l.drop 1).take 1, x.names 0 2 2050 = false) := by
  decide +kernel

/-- The rank of the job of row 2050 serves. -/
theorem serves_ref (l : List Job) (j : Job) : (listing ref l).RankServes j := by
  left
  show (ref.rank j.rank).state = .awake
  generalize j.rank = r
  revert r
  decide +kernel

theorem witness_ReevaluationStagesOrRetires :
    (∀ x ∈ (listing (asleep 1) [job .normal .staged (some four) 0]).queue.list,
      ¬ (listing (asleep 1) [job .normal .staged (some four) 0]).RankServes x) ∧
    (∃ before j behind, (listing ref (three .waiting (some four))).queue.list = before ++ j :: behind ∧
      (∀ x ∈ before, ¬ (listing ref (three .waiting (some four))).RankServes x) ∧
      (listing ref (three .waiting (some four))).RankServes j ∧ j.victims = some four) ∧
    (∃ before j behind, (listing ref (three .waiting none)).queue.list = before ++ j :: behind ∧
      (∀ x ∈ before, ¬ (listing ref (three .waiting none)).RankServes x) ∧
      (listing ref (three .waiting none)).RankServes j ∧ j.victims = none ∧
      (listing ref (three .waiting none)).victimsFor j = [6, 0, 7, 3] ∧ [6, 0, 7, 3] ≠ ([] : List Nat)) ∧
    (let s := listing (ref.modRank 0 fun u => { u with repairs := repairs }) [{ job .normal .waiting none 0 with row := 500 }]
      ∃ before j behind, s.queue.list = before ++ j :: behind ∧ before = [] ∧ j.victims = none ∧ s.victimsFor j = []) := by
  refine ⟨?_, ⟨[], _, _, rfl, by simp, serves_ref _ _, rfl⟩, ⟨[], _, _, rfl, by simp, serves_ref _ _, rfl, ?_, ?_⟩, ?_⟩
  · intro x hx
    simp only [listing, List.mem_singleton] at hx
    subst hx
    unfold State.RankServes
    decide +kernel
  · decide +kernel
  · decide +kernel
  · exact ⟨[], _, _, rfl, rfl, rfl, by decide +kernel⟩

theorem witness_StagedSlotHoldsFirstEligible :
    (∀ x ∈ (listing (asleep 1) []).restage.queue.list, ¬ (listing (asleep 1) []).restage.RankServes x) ∧
    (∃ before j behind, (hot .normal).restage.queue.list = before ++ j :: behind ∧
      (∀ x ∈ before, ¬ (hot .normal).restage.RankServes x) ∧ (hot .normal).restage.RankServes j) := by
  refine ⟨?_, [], job .normal .staged (some four) 0, [], ?_, by simp, ?_⟩
  · have : (listing (asleep 1) []).restage.queue.list = [] := by decide +kernel
    simp [this]
  · decide +kernel
  · unfold State.RankServes
    decide +kernel

/-- The job of row 2050 is the first of rank 0. -/
theorem firstOfRank (s : State) (c : JobClass) (k : JobState) (v : Option (List Nat)) (n : Nat) :
    (listing s [job c k v n]).FirstOfRank 0 [] (job c k v n) [] := ⟨rfl, by simp, rfl⟩

theorem witness_TakeChoosesFirstJobOfRank :
    (∀ x ∈ (full ref).queue.list, x.rank ≠ 0) ∧
    (listing ref [job .normal .staged (some four) 0]).FirstOfRank 0 [] (job .normal .staged (some four) 0) [] ∧
    (job .normal .staged (some four) 0).cls = .normal ∧ (job .normal .staged (some four) 0).victims = some four ∧
    (listing ref [job .urgent .waiting none 0]).FirstOfRank 0 [] (job .urgent .waiting none 0) [] ∧
    ((job .urgent .waiting none 0).victims = none ∧
      (listing ref [job .urgent .waiting none 0]).victimsFor (job .urgent .waiting none 0) = four) ∧
    (let j := { job .urgent .waiting none 0 with row := 500 }
      let s := listing (ref.modRank 0 fun u => { u with repairs := repairs }) [j]
      s.FirstOfRank 0 [] j [] ∧ s.victimsFor j = []) := by
  refine ⟨by decide +kernel, firstOfRank .., rfl, rfl, firstOfRank .., ⟨rfl, by decide +kernel⟩, ⟨rfl, by simp, rfl⟩, by decide +kernel⟩

/-- Every bank of rank 0 is closed in a state holding a command to it. -/
theorem witness_closed (op : BitVec 4) : ∀ k, (holding (hot .urgent) (beat op 0 0)).isOpen 0 k = false := by
  intro k
  show (hot .urgent).isOpen 0 k = false
  revert k
  decide +kernel

theorem witness_RefreshForwardedAndCounted :
    (∀ before j behind, ¬ ((holding (hot .normal) (beat opRefresh 0 0)).FirstOfRank 0 before j behind ∧ j.cls = .urgent)) ∧
    (let j := { job .urgent .staged none 0 with row := 500 }
      let s := holding (listing (ref.modRank 0 fun u => { u with repairs := repairs }) [j]) (beat opRefresh 0 0)
      s.engine.window = none ∧ s.FirstOfRank 0 [] j [] ∧ j.cls = .urgent ∧ (s.rank 0).debt < (s.params 0).debtLimit ∧
      (s.consumed.take 0 true).2 = none) := by
  refine ⟨?_, rfl, ⟨rfl, by simp, rfl⟩, rfl, by decide +kernel, by decide +kernel⟩
  rintro before j behind ⟨h, hu⟩
  have hl : [job .normal .staged (some four) 0] = before ++ j :: behind := h.list
  have hj : j ∈ [job .normal .staged (some four) 0] := by rw [hl]; simp
  rw [List.mem_singleton.mp hj] at hu
  cases hu

/-- A job that retires EMPTY at a take, and behind it the job of row 2050 with one victim still to serve when `next`. -/
def behindEmpty (op : BitVec 4) (next : Bool) : State :=
  let u := owing 1 (ref.modRank 0 fun u => { u with repairs := repairs })
  let first := { job .urgent .staged none 0 with row := 500 }
  holding (listing u (if next then [first, job .urgent .waiting (some four) 3] else [first])) (beat op 0 0)

theorem witness_takes_behind_empty :
    (∀ x ∈ [(opRefresh, true), (opServiceGrant, false)],
      ((behindEmpty x.1 true).consumed.take 0 x.2).2 = some (job .urgent .running (some four) 3) ∧
      ((behindEmpty x.1 false).consumed.take 0 x.2).2 = none ∧
      ∀ k, (behindEmpty x.1 true).isOpen 0 k = false ∧ (behindEmpty x.1 false).isOpen 0 k = false) ∧
    four[3]? = some 2060 ∧ ((behindEmpty opRefresh true).rank 0).debt < ((behindEmpty opRefresh true).params 0).debtLimit := by
  decide +kernel

/-- A job with its list and one victim still to serve, on an idle engine; debt one below its limit. -/
theorem witness_window_starts (op : BitVec 4) (h : op = opRefresh ∨ op = opServiceGrant) :
    let s := holding (owing 1 (listing (table ref [entry 2050 64 true]) [job .urgent .staged (some four) 3])) (beat op 0 0)
    let j := job .urgent .staged (some four) 3
    s.Completes op (beat op 0 0) (even (beat op 0 0) 0) ∧ (s.rank 0).state = .awake ∧ s.engine.window = none ∧
      (s.rank 0).debt < (s.params 0).debtLimit ∧ s.FirstOfRank 0 [] j [] ∧ j.cls = .urgent ∧ s.VictimsAre j four ∧
      four[j.served]? = some 2060 ∧ 0 < (s.params 0).stepTime ∧ (s.params 0).stepTime ≤ (s.params 0).refreshLen ∧
      (s.params 0).stepTime ≤ (s.params 0).grantLen := by
  refine ⟨completes _ _ _ rfl ?_, ?_⟩
  · rcases h with rfl | rfl <;> decide +kernel
  · rcases h with rfl | rfl <;>
      exact ⟨rfl, rfl, by decide +kernel, ⟨rfl, by simp, rfl⟩, rfl, Or.inl rfl, rfl, by decide +kernel, by decide +kernel,
        by decide +kernel⟩

theorem witness_SleepEnterAndExit :
    let f := beat opSleepExit 0 0
    (∀ n ∈ [64, 65], (holding (asleep n) f).Completes opSleepExit f (even f 0) ∧ ((holding (asleep n) f).rank 0).state = .asleep ∧
      ((holding (asleep n) f).rank 0).coverage = .running n) ∧
    64 ≤ ((asleep 64).params 0).coverTime ∧ ((asleep 65).params 0).coverTime < 65 :=
  ⟨fun _ _ => ⟨completes _ _ _ rfl (by decide +kernel), rfl, rfl⟩, by decide +kernel, by decide +kernel⟩

theorem witness_GrantWithoutJobRepaysOrIsVacant :
    (∀ x ∈ (holding (owing 1 ref) (beat opServiceGrant 0 0)).queue.list, x.rank ≠ 0) ∧
    (0 < ((owing 1 ref).rank 0).debt ∧ ((owing 1 ref).params 0).refreshLen ≤ ((owing 1 ref).params 0).grantLen) ∧
    ¬ (0 < (ref.rank 0).debt) := by decide +kernel

theorem witness_PortSlotsAreShared :
    (∀ p ∈ portAt [10], p.slot ≤ 10 ∨ (p.slot = 10 + 1 ∧ p.word.toNat / 2 ^ 18 % 2 = 0)) ∧
    (∀ p ∈ (portAt [12, 14]).take 1, ¬ (p.slot ≤ 11 ∨ (p.slot = 11 + 1 ∧ p.word.toNat / 2 ^ 18 % 2 = 0))) ∧
    (portAt [12, 14])[0 + 1]?.map PortBeat.slot = some 13 := by decide +kernel

theorem witness_EngineOpenBeginsNextStep :
    (windowed 3 false 0).engine.window.map (fun w => (w.stepOpen, w.stepsDone, w.capacity)) = some (false, 3, 4) ∧
    3 < min (four.length - 0) 4 ∧ four[0 + 3]? = some 2060 := by decide +kernel

theorem witness_EngineCloseCompletesStep : (windowed 0 true 0).engine.window.map Window.stepOpen = some true := by decide +kernel

theorem witness_WindowExpiryDoneOrPartial :
    (min (four.length - 2) 4 ≤ 2 ∧ 2 + 2 = four.length) ∧ (min (four.length - 0) 2 ≤ 2 ∧ 0 + 2 ≠ four.length) ∧
    (windowed 2 false 2).engine.window.map Window.spent = some true ∧
    (after .windowExpiry (windowed 2 false 2)).queue.stats.done = 1 := by decide +kernel

theorem witness_WindowExpiryWithoutJob :
    ∀ p ∈ [Purpose.repay, Purpose.vacant], (jobless p).engine.window.map (fun w => (w.purpose, w.stepOpen)) = some (p, false) := by
  decide +kernel

theorem witness_EventsNotDueChangeNothing :
    ref.engine.window = none ∧ (windowed 0 true 0).engine.window.map Window.stepOpen = some true ∧
    (windowed 1 false 0).engine.window.map Window.stepOpen = some false ∧
    (min (four.length - 0) 4 ≤ 4 ∧ 3 < min (four.length - 0) 4) ∧
    ({ ref with bands := { ref.bands with timer := .running 32 31 } } : State).bands.timer = .running 32 31 ∧
    (ref.rank 0).port = [] ∧ ref.refusals.schedule = [] := by decide +kernel

theorem witness_ServiceRequestLevels : (asleep 1).StagedLegal ∧ ((asleep 1).rank 0).state = .asleep := by
  refine ⟨?_, rfl⟩
  show ∀ j ∈ (asleep 1).queue.list, j.state = .waiting
  decide +kernel

theorem witness_BeatsAndPulsesLeave :
    let s := send .undefinedOpcode 0xB 0 0 0 (send .openRow opOpen 0 2 2050 ref)
    (s.rank 0).port.map (·.slot) = [3, 4] ∧ 3 ≤ s.clock.slot ∧ s.refusals.schedule = [9] ∧
      (9 ≤ ({ s with clock := { s.clock with slot := 9 } } : State).clock.slot) := by decide +kernel

theorem witness_ResetLineActs :
    ref.link.resetHigh = true ∧ (windowed 0 true 0).link.resetHigh = true ∧ (jobless .vacant).link.resetHigh = true ∧
    (after .resetFalling ref).link.resetHigh = false ∧ ref.engine.window = none ∧
    (windowed 0 true 0).active = some (job .normal .running (some four) 0) ∧
    (jobless .vacant).engine.window.map Window.purpose = some .vacant := by decide +kernel

theorem witness_RestartReturnsToPowerOn :
    (∀ w, (windowed 0 false 0).engine.window = some w → w.stepOpen = true → w.purpose = .vacant ∨ w.purpose = .repay) ∧
    (windowed 0 true 0).engine.window.map (fun w => (w.stepOpen, w.purpose)) =
      some (true, .job (job .normal .running (some four) 0)) := by
  refine ⟨?_, by decide +kernel⟩
  intro w h ho
  simp only [windowed, Option.some.injEq] at h
  subst h
  cases ho

theorem witness_operand_bytes :
    2 ≤ (2#8).toNat ∧ 13 ≤ 13 ∧ 16 ≤ (0x10#8).toNat ∧ 17 ≤ (0x11#8).toNat ∧ (1#8).toNat < 2 ∧ (15#8).toNat < 16 ∧
    (1#8).toNat = (1 : Rank).val ∧ (15#8).toNat = (15 : Bank).val := by decide +kernel

theorem witness_GeometryWritesDecided : (ref.params 0).track = true ∧ (untracked.params 0).track = false := by decide +kernel

theorem witness_TrackWriteAndClearRank :
    (windowed 0 true 0).windowOn 0 = true ∧ ref.windowOn 0 = false ∧ (2#24).toNat = 2 ∧ (1#24).toNat ≤ 1 ∧ (0#24).toNat = 0 := by
  decide +kernel

theorem witness_DeviceWritesDecided :
    (3#8).toNat = (3 : Fin 4).val ∧ 4 ≤ (4#8).toNat ∧ (255#24).toNat ≤ 255 ∧ 256 ≤ (256#24).toNat ∧
    (2 ≤ (2#24).toNat ∧ (15#24).toNat ≤ 15) ∧ ((1#24).toNat < 2 ∧ 15 < (16#24).toNat) ∧ ref.refusals.schedule = [] ∧
    (send .undefinedOpcode 0xB 0 0 0 ref).refusals.schedule = [] ++ [7] := by decide +kernel

theorem witness_ReadParameterAnswersValue :
    (0x0D#8).toNat < 14 ∧ 14 ≤ (0x0E#8).toNat ∧ (0x0F#8).toNat < 16 ∧ 16 ≤ (0x10#8).toNat := by decide +kernel

theorem witness_StatusRecordLayout :
    ref.engine.window = none ∧ (windowed 0 true 0).engine.window.isSome = true ∧
    (∀ j ∈ ref.queue.list, j.state ≠ .staged) ∧
    (hot .normal).queue.list = [] ++ job .normal .staged (some four) 0 :: [] := by decide +kernel

theorem witness_InjectJobDecided :
    (1#8).toNat = (if JobClass.urgent = .urgent then 1 else 0) ∧ (0#8).toNat = (if JobClass.normal = .urgent then 1 else 0) ∧
    (ref.params 0).rows ≤ (65536#24).toNat ∧ (65535#24).toNat < (ref.params 0).rows ∧
    (untracked.params 0).track = false ∧ (ref.params 0).track = true ∧
    ((table ref [entry 2050 64 true]).context 0 2).find 2050 = some (entry 2050 64 true) ∧
    ((table ref [entry 2050 63 false]).context 0 2).find 2050 = some (entry 2050 63 false) ∧
    16 ≤ (full ref).heldCount ∧ ref.heldCount < 16 ∧ (∀ x ∈ (ref.context 0 2).entries, x.row ≠ 2050) := by decide +kernel

theorem witness_RepairRequestsDecided :
    (16#8).toNat = 16 ∧ 64 ≤ (64#8).toNat ∧ (63#8).toNat < 64 ∧ (ref.params 0).track = true ∧ (untracked.params 0).track = false ∧
    repairs = [] ++ { bank := .one 3, row := 3076, spare := 7 } :: [{ bank := .all, row := 500, spare := 8 }] ∧
    (∀ x ∈ repairs, ¬ (x.bank = .one 3 ∧ x.row = 500)) ∧
    16 ≤ ((List.range 16).map fun k => ({ bank := .one 0, row := k, spare := k } : RepairRecord)).length := by decide +kernel

theorem witness_RefusalLogAndCounters :
    ref.refusals.log = [] ∧ (send .undefinedOpcode 0xB 0 0 0 ref).refusals.log.length = 1 := by decide +kernel

theorem witness_ResponseBufferTransactions :
    requestOperands 0x10#8 = none ∧ ref.mgmt.response = none ∧
    (after .status ref).mgmt.response.map (·.position) = some 0 ∧ requestIncomplete [0x02#8, 0#8] = true := by decide +kernel

theorem witness_RequestBytesSpellTheRequest :
    (Instr.status).wellFormed = true ∧ requestBytes .status = some [0x01] ∧ requestIncomplete [0x02, 0] = true ∧
    requestCommand true [0x0F] = some (.restart true) ∧ requestOperands 0x04 = some [(3 : Byte)].length := by decide +kernel

theorem witness_BusTransactionsAreTheirRows :
    (ref.mgmt.bus = .free ∧ ref.mgmt.ack = false ∧ ref.mgmt.request = none) ∧
    (Instr.setBand 2).wellFormed = true ∧ requestBytes (.setBand 2) = some [0x04, 2] ∧ [(9 : Byte)] ≠ [] ∧
    (∀ bytes ∈ ([[], [0x02, 0]] : List (List Byte)), requestIncomplete bytes = true) ∧
    (∀ first ∈ ([0x00, 0xB2] : List Byte), first.extractLsb' 1 7 ≠ ref.mgmt.address) ∧
    .start ∉ [BusEvent.byte 1 false, .read true] ∧ .stop ∉ [BusEvent.byte 1 false, .read true] := by decide +kernel

/-! ### A legal state in the middle of a window, for the statements about every legal state -/

/-- One step complete, the second in progress, ENGINE_CLOSE waiting. -/
def midway : State := { windowed 1 true 0 with pending := [.engineClose false] }

theorem midway_heldJobs : midway.heldJobs = [job .normal .running (some four) 0] := by decide +kernel

theorem midway_parameters : midway.ParametersLegal where
  params := fun r => by constructor <;> revert r <;> decide +kernel
  repairs := fun r => by constructor <;> revert r <;> decide +kernel
  refresh := fun r => by constructor <;> revert r <;> decide +kernel
  stalePeriod := by decide +kernel
  distance := by decide +kernel

theorem midway_tables : midway.TablesLegal := fun r b => by
  constructor <;> revert r b <;> decide +kernel

theorem midway_window (w : Window) (h : midway.engine.window = some w) :
    w.purpose = .job (job .normal .running (some four) 0) ∧ w.rank = 0 ∧ w.stepOpen = true ∧ w.Legal := by
  simp only [midway, windowed, Option.some.injEq] at h
  subst h
  refine ⟨rfl, rfl, rfl, ?_⟩
  constructor <;> decide +kernel

theorem midway_ranks : midway.RanksLegal where
  service := by
    unfold State.ServiceMatchesWindow
    decide +kernel
  reset := by constructor <;> decide +kernel
  timer := fun r => by
    have h : ∀ r, (midway.rank r).coverage = .stopped ∧ (midway.rank r).state ≠ .asleep := by decide +kernel
    unfold RankUnit.TimerLegal
    rw [(h r).1]
    exact (h r).2
  closed := fun r => by
    unfold RankUnit.SleepsClosed
    revert r
    decide +kernel
  window := fun w h b => by
    obtain ⟨hp, hr, ho, -⟩ := midway_window w h
    rw [hp, hr, ho]
    have hb : ∀ b, midway.isOpen 0 b = true ↔ b = 2 := by decide +kernel
    rw [hb]
    constructor
    · rintro rfl
      exact ⟨_, rfl, rfl, rfl⟩
    · rintro ⟨j, hj, -, rfl⟩
      cases hj
      rfl

theorem midway_marks : midway.MarksMatchJobs := by
  intro r b row
  have hall : ∀ r b, ∀ e ∈ (midway.context r b).entries, r = 0 ∧ b = 2 ∧ e = entry 2050 64 true := by decide +kernel
  rw [midway_heldJobs]
  constructor
  · rintro ⟨j, hj, hn⟩
    rw [List.mem_singleton.mp hj] at hn
    simp only [Job.names, job, Bool.and_eq_true, beq_iff_eq] at hn
    obtain ⟨⟨rfl, rfl⟩, rfl⟩ := hn
    exact ⟨entry 2050 64 true, by decide +kernel, rfl, rfl⟩
  · rintro ⟨e, he, rfl, -⟩
    obtain ⟨rfl, rfl, rfl⟩ := hall r b e he
    exact ⟨_, List.mem_singleton.mpr rfl, by decide +kernel⟩

/-- The state is legal and its next step answers a next state. -/
theorem witness_StepKeepsLegal : midway.Inv ∧ ∃ t, step midway = .next t := by
  refine ⟨?_, _, rfl⟩
  constructor
  case parameters => exact midway_parameters
  case tables => exact midway_tables
  case refusals => constructor <;> decide +kernel
  case ranks => exact midway_ranks
  case ports =>
    have h : ∀ r, (midway.rank r).port = [] ∧ (midway.rank r).portOut = none := by decide +kernel
    exact fun r => ⟨by rw [(h r).1]; exact .nil, fun q hq => by rw [(h r).2] at hq; cases hq⟩
  case window => exact fun w h => (midway_window w h).2.2.2
  case jobs =>
    rw [midway_heldJobs]
    intro j hj
    rw [List.mem_singleton.mp hj]
    show four.length ≤ 4 ∧ 0 < four.length ∧ four.Nodup ∧ 2050 ∉ four
    decide +kernel
  case held => constructor <;> decide +kernel
  case list =>
    refine ⟨?_, by decide +kernel, ?_⟩
    · unfold UrgentFirst
      decide +kernel
    · intro w j h hp
      obtain ⟨hp', hr, -⟩ := midway_window w h
      rw [hp'] at hp
      cases hp
      exact ⟨rfl, hr.symm⟩
  case staged =>
    show ∀ j ∈ midway.queue.list, j.state = .waiting
    decide +kernel
  case marks => exact midway_marks
  case inside => constructor <;> decide +kernel
  case radius =>
    rw [State.ListsFitRadius, midway_heldJobs]
    intro j hj
    rw [List.mem_singleton.mp hj]
    decide +kernel
  case mgmt => constructor <;> (try intro _ h) <;> (first | cases h | decide +kernel)
  case untracked =>
    intro r h
    have ht : ∀ r, (midway.params r).track = true := by decide +kernel
    rw [ht r] at h
    cases h
  case full =>
    intro h
    cases h
  case balance =>
    unfold State.Balanced
    decide +kernel

/-! ### Legal states with a sleeping rank, and with RESET/ low -/

/-- A state with no job, no entry and no window is legal when its parameters, line, timers, banks and port are. -/
theorem quiet_legal (s : State) (hp : s.ParametersLegal) (hr : s.ResetMatchesLine) (ht : ∀ r, (s.rank r).TimerLegal)
    (hm : s.mgmt.Legal) (hw : s.engine.window = none) (hq : s.queue.list = []) (hf : s.queue.full = false)
    (hb : s.queue.stats = Stats.zero) (hl : s.refusals = State.reset.refusals)
    (hc : ∀ r b, s.context r b = BankContext.empty) (ho : ∀ r b, s.isOpen r b = false)
    (hx : ∀ r, (s.rank r).port = [] ∧ (s.rank r).portOut = none) (hs : ∀ r, (s.rank r).state ≠ .service) :
    s.Inv := by
  have hj : s.heldJobs = [] := by simp [State.heldJobs, State.active, hw, hq]
  have hn : ∀ r b, (s.context r b).entries = [] := fun r b => by rw [hc]; rfl
  constructor
  case parameters => exact hp
  case tables => exact fun r b => by rw [hc]; constructor <;> decide
  case refusals => rw [hl]; constructor <;> decide +kernel
  case ranks =>
    refine ⟨fun r => ?_, hr, ht, fun r _ b => ho r b, fun w h => ?_⟩
    · simp [hs, State.windowOn, hw]
    · rw [hw] at h; cases h
  case ports => exact fun r => ⟨by rw [(hx r).1]; exact .nil, fun q hq => by rw [(hx r).2] at hq; cases hq⟩
  case window => intro w h; rw [hw] at h; cases h
  case jobs => rw [hj]; simp
  case held => exact ⟨by simp [State.heldCount, State.active, hw, hq], by rw [hj]; exact .nil⟩
  case list => exact ⟨by rw [UrgentFirst, hq]; exact .nil, by simp [hq], fun w j h => by rw [hw] at h; cases h⟩
  case staged => simp [State.StagedLegal, hq, splitFirst]
  case marks => intro r b row; simp [hj, hn]
  case inside => exact ⟨by simp [hn], by simp [hj]⟩
  case radius => simp [State.ListsFitRadius, hj]
  case untracked => exact fun r _ => ⟨hn r, by simp [hj]⟩
  case full => intro h; rw [hf] at h; cases h
  case mgmt => exact hm
  case balance => simp [State.Balanced, hb, Stats.zero, State.heldCount, State.active, hw, hq]

/-- Rank 0 asleep, the FIRST beat of its SLEEP EXIT held, the SECOND waiting. -/
def dozing : State :=
  let f := beat opSleepExit 0 0
  { holding (asleep 5) f with pending := [.sleepExit (even f 0)] }

/-- Parameters and repair lists are legal when they are those of `ref` or of the reset state. -/
theorem parameters_legal (s : State) (h : s.bands = ref.bands ∨ s.bands = State.reset.bands)
    (hd : s.refusals = State.reset.refusals)
    (hu : ∀ r, (s.rank r).params = ref.params r ∨ (s.rank r).params = State.reset.params r)
    (hr : ∀ r, (s.rank r).repairs = [] ∧ (s.rank r).refreshCount = 0 ∧ (s.rank r).debt = 0) : s.ParametersLegal where
  params := fun r => by
    have hl : ∀ r, (State.reset.params r).Legal := fun r => by constructor <;> revert r <;> decide +kernel
    rcases hu r with h | h
    · rw [State.params, h]; exact witness_Legal r
    · rw [State.params, h]; exact hl r
  repairs := fun r => ⟨by simp [(hr r).1], by simp [(hr r).1], by rw [(hr r).1]; exact .nil⟩
  refresh := fun r => ⟨by
    have hc : ∀ r, 0 < (ref.params r).windowRefreshes ∧ 0 < (State.reset.params r).windowRefreshes := by decide +kernel
    rw [(hr r).2.1]
    rcases hu r with h | h
    · rw [h]; exact (hc r).1
    · rw [h]; exact (hc r).2, by rw [(hr r).2.2]; exact Nat.zero_le _⟩
  stalePeriod := by rcases h with h | h <;> rw [h] <;> decide +kernel
  distance := by rw [hd]; decide +kernel

theorem dozing_legal : dozing.Inv := by
  refine quiet_legal _ (parameters_legal _ (.inl rfl) rfl (fun _ => .inl ?_) ?_) ?_ (fun r => ?_) ?_ rfl rfl rfl rfl rfl ?_ ?_ ?_ ?_
  case refine_4 =>
    match r with
    | 0 => exact ⟨rfl, by decide⟩
    | 1 => exact fun h => by cases h
  case refine_1 r => revert r; decide +kernel
  case refine_3 => constructor <;> decide +kernel
  case refine_5 => constructor <;> (try intro _ h) <;> (first | cases h | decide +kernel)
  all_goals decide +kernel

theorem low_legal : (State.powerOn [.coverageTick] false 0).Inv := by
  refine quiet_legal _ (parameters_legal _ (.inr rfl) rfl (fun _ => .inr ?_) ?_) ?_ (fun r => ?_) ?_ rfl rfl rfl rfl rfl ?_ ?_ ?_ ?_
  case refine_4 =>
    match r with
    | 0 => exact fun h => by cases h
    | 1 => exact fun h => by cases h
  case refine_1 r => revert r; decide +kernel
  case refine_3 => constructor <;> decide +kernel
  case refine_5 => constructor <;> (try intro _ h) <;> (first | cases h | decide +kernel)
  all_goals decide +kernel

/-- A step of a legal state with a sleeping rank that takes its SLEEP EXIT, and one with RESET/ low. -/
theorem witness_StepKeepsRanksLegal :
    (dozing.Inv ∧ (dozing.rank 0).state = .asleep ∧ ∃ t, step dozing = .next t ∧ (t.rank 0).port.length = 2) ∧
    (let s := State.powerOn [.coverageTick] false 0;
      s.Inv ∧ (s.rank 0).state = .resetHold ∧ ∃ t, step s = .next t) :=
  ⟨⟨dozing_legal, rfl, _, rfl, by decide +kernel⟩, low_legal, rfl, _, rfl⟩

end Sys2Proof.Tests
end

section
/-! ### Row activity tables: what the evaluation of one entry decides

The branches of `State.evaluate`, `State.enqueueAttempt` and `State.promote`, one lemma each (R10 to R12, R58, R59, R63), and
the table of R12 put together from them. -/

namespace Sys2Proof.Machine

open Sys2Proof

/-- The test of the ordered list reads the class of a job (R55). -/
theorem Job.urgent_eq_true_iff (j : Job) : j.urgent = true ↔ j.cls = .urgent := by
  simp [Job.urgent]

/-- An attempt with 16 jobs held is refused and leaves its trace in the queue-full flag alone (R58 a, R59). -/
theorem enqueueAttempt_of_full {s : State} (h : 16 ≤ s.heldCount) (r : Rank) (b : Bank) (row : Nat) (k : JobClass) (n : Nat) :
    s.enqueueAttempt r b row k n = { s with queue := { s.queue with full := true } } :=
  if_pos h

/-- An attempt with room in the queue is accepted as a job of origin COUNT (R58 b). -/
theorem enqueueAttempt_of_room {s : State} (h : s.heldCount < 16) (r : Rank) (b : Bank) (row : Nat) (k : JobClass) (n : Nat) :
    s.enqueueAttempt r b row k n = s.acceptJob r b row k .count n :=
  if_neg (Nat.not_le.mpr h)

/-- A promotion request that finds no listed NORMAL job of the row has no effect (R63). -/
theorem promote_of_all_urgent {s : State} {r : Rank} {b : Bank} {row : Nat}
    (h : ∀ j ∈ s.queue.list, j.names r b row = true → j.cls = .urgent) : s.promote r b row = s := by
  have hnone : splitFirst (fun j => j.names r b row && !j.urgent) s.queue.list = none := by
    refine splitFirst_eq_none.mpr fun j hj => ?_
    cases hn : j.names r b row with
    | false => rfl
    | true => simp [j.urgent_eq_true_iff.mpr (h j hj hn)]
  unfold State.promote
  rw [hnone]

/-- Evaluation of a row that the table does not name has nothing to evaluate. -/
theorem evaluate_of_find_eq_none {s : State} {r : Rank} {b : Bank} {row : Nat} (h : (s.context r b).find row = none) :
    s.evaluate r b row = s := by
  simp only [State.evaluate, h]

section Entry

variable {s : State} {r : Rank} {b : Bank} {row : Nat} {e : Entry}

/-- A marked entry is compared with U alone, and asks for a promotion (R11, R12). -/
theorem evaluate_of_marked (hf : (s.context r b).find row = some e) (hm : e.mark = true) :
    s.evaluate r b row = if s.urgentLevel r ≤ e.count then s.promote r b row else s := by
  simp only [State.evaluate, hf, hm, if_true]

/-- An unmarked entry below S asks for nothing (R12). -/
theorem evaluate_of_unmarked_below (hf : (s.context r b).find row = some e) (hm : e.mark = false)
    (hS : e.count < s.serviceLevel r) : s.evaluate r b row = s := by
  simp only [State.evaluate, hf, hm, Bool.false_eq_true, if_false, Nat.not_le.mpr hS]

/-- An unmarked entry that has reached S makes an attempt of the class that U gives (R10, R12). -/
theorem evaluate_of_unmarked_reached (hf : (s.context r b).find row = some e) (hm : e.mark = false)
    (hS : s.serviceLevel r ≤ e.count) :
    s.evaluate r b row =
      s.enqueueAttempt r b row (if s.urgentLevel r ≤ e.count then .urgent else .normal) e.count := by
  simp only [State.evaluate, hf, hm, Bool.false_eq_true, if_false, hS, if_true]

end Entry

/-- Settles O15, by the mark of the entry, then its count against S and U, then the room in the queue. -/
theorem evaluationDecides : Obligations.EvaluationDecides := by
  unfold Obligations.EvaluationDecides
  intro s r b row
  refine ⟨evaluate_of_find_eq_none, fun e hf => ⟨?_, ?_, ?_, ?_, ?_, ?_, ?_⟩⟩
  · exact evaluate_of_unmarked_below hf
  · intro hm hS hfull
    rw [evaluate_of_unmarked_reached hf hm hS, enqueueAttempt_of_full hfull]
  · intro hm hS hroom hU
    rw [evaluate_of_unmarked_reached hf hm hS, enqueueAttempt_of_room hroom, if_neg (Nat.not_le.mpr hU)]
  · intro hm hS hroom hU
    rw [evaluate_of_unmarked_reached hf hm hS, enqueueAttempt_of_room hroom, if_pos hU]
  · intro hm hU
    rw [evaluate_of_marked hf hm, if_neg (Nat.not_le.mpr hU)]
  · intro hm hU hurgent
    rw [evaluate_of_marked hf hm, if_pos hU, promote_of_all_urgent hurgent]
  · intro hm hU _
    rw [evaluate_of_marked hf hm, if_pos hU]

end Sys2Proof.Machine
end

section
/-! ### Thresholds and temperature bands: the derivation, and the writes that decide it

What `derate` does to a programmed threshold (R28), one decision rule for a per-rank write whose checks all answer the same
code (R26, R158), and the equations of SET BAND and of the two device parameters (R29, R32, R135). -/

namespace Sys2Proof.Machine

open Sys2Proof

/-! #### Effective thresholds (R27, R28) -/

/-- No effective threshold lies below the minimum. -/
theorem thresholdMin_le_derate (p : Nat) (b : Fin 4) : 16 ≤ derate p b :=
  Nat.le_max_left _ _

/-- Rounding down and the minimum of 16 keep the order of the programmed values. -/
theorem derate_mono {p q : Nat} (h : p ≤ q) (b : Fin 4) : derate p b ≤ derate q b :=
  max_le_max_left _ (Nat.div_le_div_right (Nat.mul_le_mul_right _ h))

/-- No factor is above 4/4. -/
theorem derate_le_self {p : Nat} (h : 16 ≤ p) (b : Fin 4) : derate p b ≤ p := by
  have hfactor : p * (4 - b.val) ≤ p * 4 := Nat.mul_le_mul_left p (Nat.sub_le 4 b.val)
  exact max_le h (by omega)

/-- At a band above 0 the factor is at most 3/4. -/
theorem derate_lt_self {p : Nat} (h : 16 < p) {b : Fin 4} (hb : b.val ≠ 0) : derate p b < p := by
  have hfactor : p * (4 - b.val) ≤ p * 3 := Nat.mul_le_mul_left p (by omega)
  exact max_lt h (by omega)

/-- The effective band as a number (R27). -/
theorem effectiveBand_val (s : State) : s.effectiveBand.val = if s.bands.stale then 3 else s.bands.band.val :=
  apply_ite Fin.val _ _ _

/-- Settles O17: the order by `derate_mono`, the range by `derate_le_self`, and the bound 4095 by `derate_lt_self`. -/
theorem effectiveThresholdsDerated : Obligations.EffectiveThresholdsDerated := by
  unfold Obligations.EffectiveThresholdsDerated
  intro s r
  simp only [← effectiveBand_val]
  refine ⟨rfl, rfl, rfl, fun hp => ?_⟩
  obtain ⟨hservice, -⟩ := hp.service
  have hordered := hp.serviceUrgent
  have hceiling := hp.urgentCeiling
  have hle : s.ceiling r ≤ (s.params r).tCeiling := derate_le_self (by omega) _
  refine ⟨thresholdMin_le_derate _ _, derate_mono hordered.le _, derate_mono hceiling.le _, hle.trans hp.ceiling,
    fun htop => ⟨le_antisymm hp.ceiling (htop ▸ hle), ?_⟩⟩
  by_contra hwarm
  have hlt : s.ceiling r < (s.params r).tCeiling := derate_lt_self (by omega) hwarm
  exact absurd hp.ceiling (by omega)

/-! #### Per-rank writes (R26, R157, R158) -/

/-- A rank byte that names a rank. -/
theorem rankOf_of_toNat_eq {x : Byte} {r : Rank} (h : x.toNat = r.val) : rankOf x = some r := by
  have hlt : x.toNat < 2 := h ▸ r.isLt
  rw [rankOf, dif_pos hlt]
  exact congrArg some (Fin.ext h)

/-- The range check passes exactly on the range. -/
theorem outside_eq_false_iff {lo hi v : Nat} : outside lo hi v = false ↔ lo ≤ v ∧ v ≤ hi := by
  simp [outside]

/-- Two checks in turn that answer the same code are one check. -/
theorem refusedIf_refusedIf (s : State) (bad worse : Bool) (code : ResponseCode) (d : State × ResponseCode) :
    s.refusedIf bad code (s.refusedIf worse code d) = s.refusedIf (bad || worse) code d := by
  cases bad <;> rfl

/-- A write to a good rank under one check: stored with OK when the check passes, refused and nothing changed otherwise. -/
theorem writeRank_of_refusedIf {s t : State} {r : Rank} {rank : Byte} {f : Rank → State × ResponseCode} {bad : Bool}
    {code : ResponseCode} {good : Prop} [Decidable good] (hr : rank.toNat = r.val)
    (hf : f r = s.refusedIf bad code (t, .ok)) (hgood : bad = false ↔ good) :
    s.writeRank rank f = if good then t.reply .ok else s.reply code := by
  simp only [State.writeRank, rankOf_of_toNat_eq hr, hf]
  cases bad with
  | false => rw [if_pos (hgood.mp rfl)]; rfl
  | true => rw [if_neg fun h => Bool.noConfusion (hgood.mpr h)]; rfl

/-- Settles O43: in each write the range check and the order check are one check. -/
theorem thresholdWritesDecided : Obligations.ThresholdWritesDecided := by
  unfold Obligations.ThresholdWritesDecided
  intro s r rank value hr
  refine ⟨congrArg Host.Outcome.next (writeRank_of_refusedIf hr (refusedIf_refusedIf ..) ?service),
    congrArg Host.Outcome.next (writeRank_of_refusedIf hr (refusedIf_refusedIf ..) ?urgent),
    congrArg Host.Outcome.next (writeRank_of_refusedIf hr (refusedIf_refusedIf ..) ?ceiling)⟩
  all_goals simp only [Bool.or_eq_false_iff, outside_eq_false_iff, decide_eq_false_iff_not, not_le, and_assoc]

/-! #### SET BAND and the device parameters (R29, R30, R32, R134, R135) -/

/-- SET BAND of one of the four bands. -/
theorem exec_setBand_of_toNat_eq {band : Byte} {k : Fin 4} (h : band.toNat = k.val) (s : State) :
    exec (.setBand band) s = .next (({ s with bands := { s.bands with
      band := k, stale := false, timer := startStale s.bands.stalePeriod } }).reply .ok) := by
  have hlt : band.toNat < 4 := h ▸ k.isLt
  have hk : (⟨band.toNat, hlt⟩ : Fin 4) = k := Fin.ext h
  rw [← hk]
  exact congrArg Host.Outcome.next (dif_pos hlt)

/-- SET BAND of a value that is no band. -/
theorem exec_setBand_of_four_le {band : Byte} (h : 4 ≤ band.toNat) (s : State) :
    exec (.setBand band) s = .next (s.reply .range) :=
  congrArg Host.Outcome.next (dif_neg (Nat.not_lt.mpr h))

/-- A STALE_PERIOD write starts the timer with the period it stores, or is refused. -/
theorem exec_stalePeriodWrite (rank : Byte) (value : BitVec 24) (s : State) :
    exec (.stalePeriodWrite rank value) s = .next (if 255 < value.toNat then s.reply .range
      else ({ s with bands := { s.bands with stalePeriod := value.toNat, timer := startStale value.toNat } }).reply .ok) :=
  rfl

/-- A REFUSAL_DISTANCE write stores the distance and nothing else, or is refused. -/
theorem exec_refusalDistanceWrite (rank : Byte) (value : BitVec 24) (s : State) :
    exec (.refusalDistanceWrite rank value) s = .next (if outside 2 15 value.toNat then s.reply .range
      else ({ s with refusals := { s.refusals with distance := value.toNat } }).reply .ok) :=
  rfl

/-- A report schedules its pulse behind those already scheduled. -/
theorem report_schedule (s : State) (n : Nat) (x : Report) :
    (s.report n x).refusals.schedule =
      s.refusals.schedule ++ [pulseSlot s.refusals.schedule n s.refusals.distance] :=
  rfl

/-- With no pulse scheduled, the pulse follows its report at the distance. -/
theorem pulseSlot_nil (n d : Nat) : pulseSlot [] n d = n + d :=
  rfl

/-- A pulse stands at the distance, or directly after the latest one scheduled if that is later. -/
theorem pulseSlot_append_singleton (before : List Nat) (latest n d : Nat) :
    pulseSlot (before ++ [latest]) n d = max (n + d) (latest + 1) := by
  simp only [pulseSlot, List.getLast?_append, List.getLast?_singleton, Option.some_or]
  split <;> omega

/-- Settles O46, request by request and for each by the range of its operand; the pulses by the end of the schedule. -/
theorem deviceWritesDecided : Obligations.DeviceWritesDecided := by
  unfold Obligations.DeviceWritesDecided
  intro s band rank value
  refine ⟨fun k hk => exec_setBand_of_toNat_eq hk s, fun h => exec_setBand_of_four_le h s, fun h => ?_, fun h => ?_,
    fun h => ⟨?_, fun n x => ⟨fun hnil => ?_, fun before latest hlast => ?_⟩⟩, fun h => ?_⟩
  · rw [exec_stalePeriodWrite, if_neg (Nat.not_lt.mpr h)]
    rfl
  · rw [exec_stalePeriodWrite, if_pos (Nat.lt_of_succ_le h)]
  · rw [exec_refusalDistanceWrite, outside_eq_false_iff.mpr h]
    rfl
  · rw [report_schedule, State.reply_refusals, hnil, pulseSlot_nil]
    rfl
  · rw [report_schedule, State.reply_refusals, hlast, pulseSlot_append_singleton, List.append_assoc]
    rfl
  · have hout : outside 2 15 value.toNat = true := by simpa [outside] using h
    rw [exec_refusalDistanceWrite, if_pos hout]

end Sys2Proof.Machine
end

section
/-! ### Neighbour rows: the properties of a victim list

The candidate places around a place (R49, R51), the records that cover a pair (R42, R43), and from both what R52 says of a victim
list, for a hot row at its ordinary position and for one held in a spare. -/

namespace Sys2Proof.Machine

open Sys2Proof

/-! #### Candidate places (R49, R51) -/

/-- The place below is the one at that distance, where there is one. -/
theorem mem_placeBelow {p k c : Nat} : c ∈ placeBelow p k ↔ c + k = p := by
  unfold placeBelow
  split <;> simp <;> omega

/-- The places at a distance: one below, where there is one, and one above. -/
theorem mem_placesAt {p k c : Nat} : c ∈ placeBelow p k ++ [p + k] ↔ c + k = p ∨ c = p + k := by
  rw [List.mem_append, mem_placeBelow, List.mem_singleton]

/-- At most two places stand at a distance. -/
theorem placesAt_length_le (p k : Nat) : (placeBelow p k ++ [p + k]).length ≤ 2 := by
  unfold placeBelow
  split <;> simp

/-- The places at a distance other than 0 differ. -/
theorem placesAt_nodup (p : Nat) {k : Nat} (hk : 0 < k) : (placeBelow p k ++ [p + k]).Nodup := by
  unfold placeBelow
  split
  · have hne : p - k ≠ p + k := by omega
    simpa using hne
  · exact List.nodup_singleton _

/-- With radius 2 the candidates are the places at distance 1 and then those at distance 2 (R49). -/
theorem candidates_of_two (p : Nat) :
    candidates p 2 = (placeBelow p 1 ++ [p + 1]) ++ (placeBelow p 2 ++ [p + 2]) :=
  rfl

/-- With another radius they are the places at distance 1 alone (R49). -/
theorem candidates_of_ne_two (p : Nat) {radius : Nat} (h : radius ≠ 2) :
    candidates p radius = placeBelow p 1 ++ [p + 1] := by
  rw [candidates, if_neg h, List.append_nil]

/-- A place is no candidate of its own. -/
theorem self_notMem_candidates (p radius : Nat) : p ∉ candidates p radius := by
  by_cases h : radius = 2
  · rw [h, candidates_of_two, List.mem_append, mem_placesAt, mem_placesAt]
    omega
  · rw [candidates_of_ne_two p h, mem_placesAt]
    omega

/-- No place is a candidate twice. -/
theorem candidates_nodup (p radius : Nat) : (candidates p radius).Nodup := by
  by_cases h : radius = 2
  · rw [h, candidates_of_two]
    refine (placesAt_nodup p Nat.one_pos).append (placesAt_nodup p Nat.two_pos) fun c hnear hfar => ?_
    rw [mem_placesAt] at hnear hfar
    omega
  · rw [candidates_of_ne_two p h]
    exact placesAt_nodup p Nat.one_pos

/-- Each distance up to the radius gives at most two candidates. -/
theorem candidates_length_le (p : Nat) {radius : Nat} (h : radius = 1 ∨ radius = 2) :
    (candidates p radius).length ≤ 2 * radius := by
  have hnear := placesAt_length_le p 1
  rcases h with rfl | rfl
  · rwa [candidates_of_ne_two p (by decide)]
  · rw [candidates_of_two, List.length_append]
    exact Nat.add_le_add hnear (placesAt_length_le p 2)

/-! #### Records that cover a pair (R42, R43) -/

/-- The record that covers (bank, row) is one of the list, covers the bank and names the row. -/
theorem coveringRow_spec {repairs : List RepairRecord} {b : Bank} {row : Nat} {x : RepairRecord}
    (h : coveringRow repairs b row = some x) : x ∈ repairs ∧ x.bank.covers b = true ∧ x.row = row := by
  obtain ⟨hcovers, hrow⟩ : x.bank.covers b = true ∧ x.row = row := by simpa using List.find?_some h
  exact ⟨List.mem_of_find?_eq_some h, hcovers, hrow⟩

/-- The record that covers (bank, spare) is one of the list, covers the bank and names the spare. -/
theorem coveringSpare_spec {repairs : List RepairRecord} {b : Bank} {spare : Nat} {x : RepairRecord}
    (h : coveringSpare repairs b spare = some x) : x ∈ repairs ∧ x.bank.covers b = true ∧ x.spare = spare := by
  obtain ⟨hcovers, hspare⟩ : x.bank.covers b = true ∧ x.spare = spare := by simpa using List.find?_some h
  exact ⟨List.mem_of_find?_eq_some h, hcovers, hspare⟩

/-- Two bank fields that cover one bank share it. -/
theorem RepairBank.meets_of_covers {k l : RepairBank} {b : Bank} (hk : k.covers b = true) (hl : l.covers b = true) :
    k.meets l = true := by
  cases k with
  | all => cases l <;> rfl
  | one c =>
    cases l with
    | all => rfl
    | one d =>
      simp only [RepairBank.covers, beq_iff_eq] at hk hl
      simp [RepairBank.meets, hk, hl]

/-- Sharing a bank is mutual. -/
theorem RepairBank.meets_comm (k l : RepairBank) : k.meets l = l.meets k := by
  cases k with
  | all => cases l <;> rfl
  | one c =>
    cases l with
    | all => rfl
    | one d => exact Bool.beq_comm

/-- Covering a common pair is mutual. -/
theorem RepairRecord.clashes_comm (x y : RepairRecord) : x.clashes y = y.clashes x := by
  unfold RepairRecord.clashes
  rw [x.bank.meets_comm, Bool.beq_comm (a := x.row), Bool.beq_comm (a := x.spare)]

/-- A legal repair list holds one record for a row of a bank (R43). -/
theorem RankUnit.RepairsLegal.eq_of_row_eq {u : RankUnit} (hu : u.RepairsLegal) {b : Bank} {x y : RepairRecord}
    (hx : x ∈ u.repairs) (hy : y ∈ u.repairs) (hxb : x.bank.covers b = true) (hyb : y.bank.covers b = true)
    (hrow : x.row = y.row) : x = y := by
  by_contra hne
  have : Std.Symm fun x y : RepairRecord => x.clashes y = false := ⟨fun x y h => (y.clashes_comm x).trans h⟩
  have hapart : x.clashes y = false := hu.apart.forall hx hy hne
  simp [RepairRecord.clashes, RepairBank.meets_of_covers hxb hyb, hrow] at hapart

/-! #### A hot row at its ordinary position (R49, R50) -/

/-- A position and the image of a logical row agree when the row and the image of the position do. -/
theorem xor_eq_iff (c row mask : Nat) : c ^^^ mask = row ↔ c = row ^^^ mask := by
  constructor <;> rintro rfl <;> simp

/-- MASK moves no row out of the bank: ROWS is a power of two. -/
theorem RankParams.Legal.xor_mask_lt {p : RankParams} (hp : p.Legal) {c : Nat} (hc : c < p.rows) : c ^^^ p.mask < p.rows := by
  obtain ⟨n, hn⟩ : ∃ n, p.rows = 2 ^ n := by
    rcases hp.rows with h | h | h
    exacts [⟨15, h⟩, ⟨16, h⟩, ⟨17, h⟩]
  have hmask := hp.mask
  rw [hn] at hc hmask ⊢
  exact Nat.xor_lt_two_pow hc hmask

/-- What a victim of an ordinary hot row is: the image of a kept candidate. -/
theorem mem_ordinaryVictims {p : RankParams} {repairs : List RepairRecord} {b : Bank} {row v : Nat} :
    v ∈ ordinaryVictims p repairs b row ↔
      ∃ c ∈ candidates (row ^^^ p.mask) p.radius, positionKept p repairs b (row ^^^ p.mask) c = true ∧ c ^^^ p.mask = v := by
  simp [ordinaryVictims, and_assoc]

/-- A position that is kept lies inside the bank (R49 a). -/
theorem lt_rows_of_positionKept {p : RankParams} {repairs : List RepairRecord} {b : Bank} {position c : Nat}
    (h : positionKept p repairs b position c = true) : c < p.rows := by
  simp only [positionKept, Bool.and_eq_true, decide_eq_true_eq] at h
  exact h.1.1

/-- The hot row is the image of its own position, which is no candidate. -/
theorem row_notMem_ordinaryVictims (p : RankParams) (repairs : List RepairRecord) (b : Bank) (row : Nat) :
    row ∉ ordinaryVictims p repairs b row := by
  intro h
  obtain ⟨c, hc, -, himage⟩ := mem_ordinaryVictims.mp h
  rw [(xor_eq_iff c row p.mask).mp himage] at hc
  exact self_notMem_candidates _ _ hc

/-- The victims of an ordinary hot row are no more than the candidates. -/
theorem ordinaryVictims_length_le (p : RankParams) (repairs : List RepairRecord) (b : Bank) (row : Nat) :
    (ordinaryVictims p repairs b row).length ≤ (candidates (row ^^^ p.mask) p.radius).length := by
  rw [ordinaryVictims, List.length_map]
  exact List.length_filter_le _ _

/-- Different candidates have different images. -/
theorem ordinaryVictims_nodup (p : RankParams) (repairs : List RepairRecord) (b : Bank) (row : Nat) :
    (ordinaryVictims p repairs b row).Nodup :=
  ((candidates_nodup _ _).filter _).map Nat.xor_left_injective

/-- A kept candidate lies in the bank, and so does its image. -/
theorem lt_rows_of_mem_ordinaryVictims {p : RankParams} (hp : p.Legal) {repairs : List RepairRecord} {b : Bank} {row v : Nat}
    (h : v ∈ ordinaryVictims p repairs b row) : v < p.rows := by
  obtain ⟨c, -, hkept, rfl⟩ := mem_ordinaryVictims.mp h
  exact hp.xor_mask_lt (lt_rows_of_positionKept hkept)

/-! #### A hot row held in a spare (R51) -/

/-- A victim of a hot row in a spare is the row of a record that covers a candidate spare. -/
theorem exists_of_mem_spareVictims {p : RankParams} {repairs : List RepairRecord} {b : Bank} {s v : Nat}
    (h : v ∈ spareVictims p repairs b s) :
    ∃ y, y.spare ∈ candidates s p.radius ∧ y ∈ repairs ∧ y.bank.covers b = true ∧ y.row = v := by
  simp only [spareVictims, List.mem_filterMap, List.mem_filter, Option.map_eq_some_iff] at h
  obtain ⟨t, ⟨ht, -⟩, y, hy, hrow⟩ := h
  obtain ⟨hmem, hcovers, rfl⟩ := coveringSpare_spec hy
  exact ⟨y, ht, hmem, hcovers, hrow⟩

/-- The victims of a hot row in a spare are no more than the candidates. -/
theorem spareVictims_length_le (p : RankParams) (repairs : List RepairRecord) (b : Bank) (s : Nat) :
    (spareVictims p repairs b s).length ≤ (candidates s p.radius).length :=
  (List.length_filterMap_le _ _).trans (List.length_filter_le _ _)

section Spare

variable {u : RankUnit} {b : Bank}

/-- The one record of the hot row names its own spare, which is no candidate. -/
theorem row_notMem_spareVictims (hu : u.RepairsLegal) {x : RepairRecord} (hx : x ∈ u.repairs) (hxb : x.bank.covers b = true) :
    x.row ∉ spareVictims u.params u.repairs b x.spare := by
  intro h
  obtain ⟨y, hspare, hy, hyb, hrow⟩ := exists_of_mem_spareVictims h
  rw [hu.eq_of_row_eq hy hx hyb hxb hrow] at hspare
  exact self_notMem_candidates _ _ hspare

/-- Different candidate spares are covered by different records, which name different rows. -/
theorem spareVictims_nodup (hu : u.RepairsLegal) (s : Nat) : (spareVictims u.params u.repairs b s).Nodup := by
  refine ((candidates_nodup _ _).filter _).filterMap fun t t' v ht ht' => ?_
  obtain ⟨y, hy, hrow⟩ := Option.map_eq_some_iff.mp ht
  obtain ⟨y', hy', hrow'⟩ := Option.map_eq_some_iff.mp ht'
  obtain ⟨hmem, hcovers, rfl⟩ := coveringSpare_spec hy
  obtain ⟨hmem', hcovers', rfl⟩ := coveringSpare_spec hy'
  rw [hu.eq_of_row_eq hmem hmem' hcovers hcovers' (hrow.trans hrow'.symm)]

/-- Repair records name rows of the bank. -/
theorem lt_rows_of_mem_spareVictims (hu : u.RepairsLegal) {s v : Nat} (h : v ∈ spareVictims u.params u.repairs b s) :
    v < u.params.rows := by
  obtain ⟨y, -, hy, -, rfl⟩ := exists_of_mem_spareVictims h
  exact (hu.inside y hy).1

end Spare

/-- Settles O20, by whether the hot row stands at its ordinary position or in a spare. -/
theorem victimListsAreSound : Obligations.VictimListsAreSound := by
  unfold Obligations.VictimListsAreSound
  intro u b row hp hu _
  dsimp only
  cases hx : coveringRow u.repairs b row with
  | none =>
    simp only [victimsOf, hx]
    exact ⟨row_notMem_ordinaryVictims _ _ _ _, (ordinaryVictims_length_le ..).trans (candidates_length_le _ hp.radius),
      ordinaryVictims_nodup .., fun _ => lt_rows_of_mem_ordinaryVictims hp⟩
  | some x =>
    obtain ⟨hmem, hcovers, rfl⟩ := coveringRow_spec hx
    simp only [victimsOf, hx]
    exact ⟨row_notMem_spareVictims hu hmem hcovers, (spareVictims_length_le ..).trans (candidates_length_le _ hp.radius),
      spareVictims_nodup hu _, fun _ => lt_rows_of_mem_spareVictims hu⟩

end Sys2Proof.Machine
end

section
/-! ### Neighbour rows: the requests that change geometry and repair lists

The four geometry writes are per-rank writes (R158) behind the check of TRACK (R39). WRITE REPAIR and ERASE REPAIR are each an
equation for a good rank and bank byte (R44, R45), read branch by branch. -/

namespace Sys2Proof.Machine

open Sys2Proof

/-! #### Geometry writes (R39) -/

/-- A check that fails answers its code and changes nothing. -/
theorem refusedIf_of_eq_true {bad : Bool} (h : bad = true) (s : State) (code : ResponseCode) (d : State × ResponseCode) :
    s.refusedIf bad code d = (s, code) :=
  if_pos h

/-- A check that passes leaves the decision to what follows. -/
theorem refusedIf_of_eq_false {bad : Bool} (h : bad = false) (s : State) (code : ResponseCode) (d : State × ResponseCode) :
    s.refusedIf bad code d = d :=
  if_neg (Bool.eq_false_iff.mp h)

/-- A write to a good rank whose first check fails. -/
theorem writeRank_of_eq_refused {s : State} {r : Rank} {rank : Byte} {f : Rank → State × ResponseCode} {code : ResponseCode}
    (hr : rank.toNat = r.val) (hf : f r = (s, code)) : s.writeRank rank f = s.reply code := by
  simp only [State.writeRank, rankOf_of_toNat_eq hr, hf]

/-- Settles O42: with TRACK ON the first check of each write fails; with TRACK OFF the others are one check. -/
theorem geometryWritesDecided : Obligations.GeometryWritesDecided := by
  unfold Obligations.GeometryWritesDecided
  intro s r rank value hr
  refine ⟨fun hon => ?_, fun hoff => ⟨?_, ?_, ?_, ?_⟩⟩
  · have hrefused (d : State × ResponseCode) := refusedIf_of_eq_true hon s .state d
    simp only [List.forall_mem_cons, List.not_mem_nil, false_implies, implies_true, and_true]
    refine ⟨?_, ?_, ?_, ?_⟩
    all_goals exact congrArg Host.Outcome.next (writeRank_of_eq_refused hr (hrefused _))
  · refine congrArg Host.Outcome.next
      (writeRank_of_refusedIf hr ((refusedIf_of_eq_false hoff ..).trans (refusedIf_refusedIf ..)) ?_)
    simp only [Bool.or_eq_false_iff, Bool.not_eq_false', List.contains_iff_mem, List.mem_cons, List.not_mem_nil, or_false,
      decide_eq_false_iff_not, not_le, List.any_eq_false, decide_eq_true_eq]
  · refine congrArg Host.Outcome.next (writeRank_of_refusedIf hr (refusedIf_of_eq_false hoff ..) ?_)
    simp only [Bool.not_eq_false', List.contains_iff_mem, List.mem_cons, List.not_mem_nil, or_false]
  · refine congrArg Host.Outcome.next (writeRank_of_refusedIf hr (refusedIf_of_eq_false hoff ..) ?_)
    simp
  · refine congrArg Host.Outcome.next (writeRank_of_refusedIf hr (refusedIf_of_eq_false hoff ..) ?_)
    simp only [Bool.not_eq_false', List.contains_iff_mem, List.mem_cons, List.not_mem_nil, or_false]

/-! #### Repair requests (R44, R45) -/

/-- A bank byte 0 to 0FH names its bank. -/
theorem repairBankOf_of_toNat_eq {x : Byte} {b : Bank} (h : x.toNat = b.val) : repairBankOf x = some (.one b) := by
  have hlt : x.toNat < 16 := h ▸ b.isLt
  rw [repairBankOf, if_neg (Nat.ne_of_lt hlt), bankOf, dif_pos hlt]
  exact congrArg (some ∘ RepairBank.one) (Fin.ext h)

/-- The bank byte 10H is ALL. -/
theorem repairBankOf_of_toNat_eq_sixteen {x : Byte} (h : x.toNat = 16) : repairBankOf x = some .all :=
  if_pos h

/-- A bank byte above 10H names no bank. -/
theorem repairBankOf_of_seventeen_le {x : Byte} (h : 17 ≤ x.toNat) : repairBankOf x = none := by
  rw [repairBankOf, if_neg (by omega), bankOf, dif_neg (by omega)]
  rfl

/-- A WRITE REPAIR of no bank. -/
theorem exec_writeRepair_of_no_bank {bank : Byte} (h : repairBankOf bank = none) (s : State) (rank spare : Byte)
    (value : BitVec 24) : exec (.writeRepair rank bank value spare) s = .next (s.reply .range) := by
  show execWriteRepair rank bank value spare s = _
  simp only [execWriteRepair, h]
  cases rankOf rank <;> rfl

/-- An ERASE REPAIR of no bank. -/
theorem exec_eraseRepair_of_no_bank {bank : Byte} (h : repairBankOf bank = none) (s : State) (rank : Byte)
    (value : BitVec 24) : exec (.eraseRepair rank bank value) s = .next (s.reply .range) := by
  show execEraseRepair rank bank value s = _
  simp only [execEraseRepair, h]
  cases rankOf rank <;> rfl

section Repair

variable {s : State} {r : Rank} {k : RepairBank} {rank bank : Byte}

/-- The checks of a WRITE REPAIR in their order (R44). -/
theorem exec_writeRepair (hr : rank.toNat = r.val) (hk : repairBankOf bank = some k) (value : BitVec 24) (spare : Byte) :
    exec (.writeRepair rank bank value spare) s = .next
      (if 64 ≤ spare.toNat ∨ (s.params r).rows ≤ value.toNat then s.reply .range
      else if (s.params r).track then s.reply .state
      else if (s.rank r).repairs.any (RepairRecord.clashes ⟨k, value.toNat, spare.toNat⟩) then s.reply .exists_
      else if 16 ≤ (s.rank r).repairs.length then s.reply .tableFull
      else (s.modRank r fun u => { u with repairs := u.repairs ++ [⟨k, value.toNat, spare.toNat⟩] }).reply .ok) := by
  show execWriteRepair rank bank value spare s = _
  simp only [execWriteRepair, rankOf_of_toNat_eq hr, hk]
  rfl

/-- The checks of an ERASE REPAIR in their order, and the first record of its bank field and row (R45). -/
theorem exec_eraseRepair (hr : rank.toNat = r.val) (hk : repairBankOf bank = some k) (value : BitVec 24) :
    exec (.eraseRepair rank bank value) s = .next
      (if (s.params r).rows ≤ value.toNat then s.reply .range
      else if (s.params r).track then s.reply .state
      else (splitFirst (fun x => x.bank == k && x.row == value.toNat) (s.rank r).repairs).elim (s.reply .empty)
        fun (before, _, behind) => (s.modRank r fun u => { u with repairs := before ++ behind }).reply .ok) := by
  show execEraseRepair rank bank value s = _
  simp only [execEraseRepair, rankOf_of_toNat_eq hr, hk]
  cases splitFirst (fun x => x.bank == k && x.row == value.toNat) (s.rank r).repairs <;> rfl

end Repair

/-- A new record clashes with one of the list that shares a bank and names its row or its spare (R44 c). -/
theorem any_clashes_eq_true_iff {l : List RepairRecord} {k : RepairBank} {row spare : Nat} :
    l.any (RepairRecord.clashes ⟨k, row, spare⟩) = true ↔
      ∃ x ∈ l, k.meets x.bank = true ∧ (x.row = row ∨ x.spare = spare) := by
  simp [RepairRecord.clashes, eq_comm (a := row), eq_comm (a := spare)]

/-- It clashes with none when each of the list that shares a bank names another row and another spare (R44 c). -/
theorem any_clashes_eq_false {l : List RepairRecord} {k : RepairBank} {row spare : Nat}
    (h : ∀ x ∈ l, k.meets x.bank = true → x.row ≠ row ∧ x.spare ≠ spare) :
    l.any (RepairRecord.clashes ⟨k, row, spare⟩) = false := by
  refine Bool.eq_false_iff.mpr fun hany => ?_
  obtain ⟨x, hx, hmeets, hsame⟩ := any_clashes_eq_true_iff.mp hany
  obtain ⟨hrow, hspare⟩ := h x hx hmeets
  exact hsame.elim hrow hspare

/-- Settles O51, each request by its equation and the checks in their order; what two bank fields have in common is
`RepairBank.meets`. -/
theorem repairRequestsDecided : Obligations.RepairRequestsDecided := by
  unfold Obligations.RepairRequestsDecided
  intro s r k rank bank spare value hr hbank row l common writes erases
  have hk : repairBankOf bank = some k := by
    cases k with
    | one b => exact repairBankOf_of_toNat_eq hbank
    | all => exact repairBankOf_of_toNat_eq_sixteen hbank
  have hcommon (x : RepairRecord) : k.meets x.bank = true ↔ common x := by
    obtain ⟨bank, row, spare⟩ := x
    cases k with
    | one b =>
      cases bank with
      | one a => simp [common, RepairBank.meets, eq_comm (a := b)]
      | all => simp [common, RepairBank.meets]
    | all => cases bank <;> simp [common, RepairBank.meets]
  simp only [← hcommon]
  refine ⟨fun bad hbad => ?_, ?_, ?_, ?_, ?_⟩
  · have hnone := repairBankOf_of_seventeen_le hbad
    exact ⟨exec_writeRepair_of_no_bank hnone .., exec_eraseRepair_of_no_bank hnone ..⟩
  · intro hrange
    rw [exec_writeRepair hr hk, if_pos hrange]
  · intro hspare hrow
    rw [exec_writeRepair hr hk, if_neg (not_or_intro (Nat.not_le.mpr hspare) (Nat.not_le.mpr hrow))]
    refine ⟨fun hon => by rw [if_pos hon], fun hoff => ?_⟩
    rw [hoff, if_neg Bool.false_ne_true]
    refine ⟨fun hclash => ?_, fun hapart => ?_⟩
    · rw [if_pos (any_clashes_eq_true_iff.mpr hclash)]
    · rw [any_clashes_eq_false hapart, if_neg Bool.false_ne_true]
      exact ⟨fun hfull => by rw [if_pos hfull], fun hroom => by rw [if_neg (Nat.not_le.mpr hroom)]⟩
  · intro hrange
    rw [exec_eraseRepair hr hk, if_pos hrange]
  · intro hrow
    rw [exec_eraseRepair hr hk, if_neg (Nat.not_le.mpr hrow)]
    refine ⟨fun hon => by rw [if_pos hon], fun hoff => ?_⟩
    rw [hoff, if_neg Bool.false_ne_true]
    refine ⟨fun habsent => ?_, fun before x behind hl hbank' hrow' hbefore => ?_⟩
    · rw [splitFirst_eq_none.mpr fun x hx => by simpa using habsent x hx]
      rfl
    · rw [show (s.rank r).repairs = _ from hl,
        splitFirst_append x behind (fun y hy => by simpa using hbefore y hy) (by simp [hbank', hrow', row])]
      rfl

end Sys2Proof.Machine
end

section
/-! ### Refresh accounting: the requests that write the refresh and timing parameters

The six are per-rank writes (R158). All but DEBT_LIMIT stand behind one check (`writeRank_of_refusedIf`);
DEBT_LIMIT stands behind two that answer different codes (R109). -/

namespace Sys2Proof.Machine

open Sys2Proof

/-- A per-rank write to a good rank behind two checks, each with its own code. -/
theorem writeRank_of_refusedIf_refusedIf {s t : State} {r : Rank} {rank : Byte} {f : Rank → State × ResponseCode}
    {code code' : ResponseCode} {bad bad' : Prop} [Decidable bad] [Decidable bad'] (hr : rank.toNat = r.val)
    (hf : f r = s.refusedIf (decide bad) code (s.refusedIf (decide bad') code' (t, .ok))) :
    s.writeRank rank f = if bad then s.reply code else if bad' then s.reply code' else t.reply .ok := by
  simp only [State.writeRank, rankOf_of_toNat_eq hr, hf]
  by_cases h : bad
  · rw [refusedIf_of_eq_true (decide_eq_true h), if_pos h]
  · rw [refusedIf_of_eq_false (decide_eq_false h), if_neg h]
    by_cases h' : bad'
    · rw [refusedIf_of_eq_true (decide_eq_true h'), if_pos h']
    · rw [refusedIf_of_eq_false (decide_eq_false h'), if_neg h']

/-- Settles O45: each write by the range its check leaves. WINDOW_REFRESHES is stored and the count restarted in two changes of
the rank, which are one (`State.modRank_modRank`). -/
theorem refreshAndTimingWritesDecided : Obligations.RefreshAndTimingWritesDecided := by
  unfold Obligations.RefreshAndTimingWritesDecided
  intro s r rank value hr
  refine ⟨congrArg Host.Outcome.next (writeRank_of_refusedIf hr
      (congrArg (s.refusedIf _ .range ⟨·, .ok⟩) (s.modRank_modRank ..)) ?refreshes),
    congrArg Host.Outcome.next (writeRank_of_refusedIf_refusedIf hr rfl),
    congrArg Host.Outcome.next (writeRank_of_refusedIf hr rfl ?grantLen),
    congrArg Host.Outcome.next (writeRank_of_refusedIf hr rfl ?refreshLen),
    congrArg Host.Outcome.next (writeRank_of_refusedIf hr rfl ?stepTime),
    congrArg Host.Outcome.next (writeRank_of_refusedIf hr rfl ?coverTime)⟩
  case refreshes => simp only [Bool.not_eq_false', List.contains_iff_mem, List.mem_cons, List.not_mem_nil, or_false]
  case coverTime => exact outside_eq_false_iff
  all_goals simp only [Bool.or_eq_false_iff, outside_eq_false_iff, decide_eq_false_iff_not, not_lt, and_assoc]

end Sys2Proof.Machine
end

section
/-! ### Refusals: the log that TAKE REFUSAL reads, and the counters that CLEAR STATISTICS sets

How a record of the log is laid out in bytes (R133, R170), and TAKE REFUSAL with and without a record (R138). -/

namespace Sys2Proof.Machine

open Sys2Proof

/-- The encoding of a reason is its place among the ten, as R170 lists them. -/
theorem Reason.bits_eq_idxOf (x : Reason) :
    x.bits = [Reason.parity, .framing, .undefined, .asleep, .notAsleep, .window, .engineBusy, .bankOpen, .bankClosed,
      .rowHold].idxOf x := by
  cases x <;> rfl

/-- The bit that says that a field exists (R170). -/
theorem flagBit_isSome {α : Type} (i : Nat) (x : Option α) [Decidable (x = none)] :
    flagBit i x.isSome = if x = none then 0 else 2 ^ i := by
  cases x <;> simp [flagBit]

/-- TAKE REFUSAL of an empty log (R138). -/
theorem exec_takeRefusal_of_log_eq_nil {s : State} (h : s.refusals.log = []) :
    exec .takeRefusal s = .next (s.respond .empty (takeHead 0 s.refusals)) := by
  show execTakeRefusal s = _
  simp only [execTakeRefusal, h]

/-- TAKE REFUSAL of a log whose oldest record is `x` (R138). -/
theorem exec_takeRefusal_of_log_eq_cons {s : State} {x : LogRecord} {rest : List LogRecord} (h : s.refusals.log = x :: rest) :
    exec .takeRefusal s = .next (({ s with refusals := { s.refusals with log := rest } }).respond .ok
      (takeHead rest.length s.refusals ++ logBytes x)) := by
  show execTakeRefusal s = _
  simp only [execTakeRefusal, h]

/-- Settles O52: the bytes of a record field by field, each optional field present or absent; then TAKE REFUSAL by its two
cases. CLEAR STATISTICS is its own equation. -/
theorem refusalLogAndCounters : Obligations.RefusalLogAndCounters := by
  unfold Obligations.RefusalLogAndCounters
  intro s b1 head reasons record
  have hhead (left : Nat) : takeHead left s.refusals = head left := rfl
  have hrecord (x : LogRecord) : logBytes x = record x := by
    obtain ⟨sequence, reason, source, bank, operand⟩ := x
    have hbank : byte ((bank.map (·.val)).getD 0) = match bank with
        | some k => b1 k.val
        | none => 0 := by
      cases bank <;> rfl
    have hoperand : (operand.map (·.toNat)).getD 0 = match operand with
        | some o => o.toNat
        | none => 0 := by
      cases operand <;> rfl
    simp only [logBytes, Reason.bits_eq_idxOf, flagBit_isSome, hbank, hoperand]
    rfl
  refine ⟨fun hnil => ?_, fun x rest hcons => ?_, rfl⟩
  · rw [exec_takeRefusal_of_log_eq_nil hnil, hhead]
  · rw [exec_takeRefusal_of_log_eq_cons hcons, hhead, hrecord]

end Sys2Proof.Machine
end

section
/-! ### The management port: operand bytes, TRACK writes and CLEAR RANK

The operand bytes that name nothing (R157, R169), with what each request that carries one answers; then the clearing of a rank
that CLEAR RANK and a TRACK write share (R159, R162). -/

namespace Sys2Proof.Machine

open Sys2Proof

/-! #### Operand bytes (R157, R169) -/

/-- A rank byte above 1 names no rank. -/
theorem rankOf_of_two_le {x : Byte} (h : 2 ≤ x.toNat) : rankOf x = none :=
  dif_neg (Nat.not_lt.mpr h)

/-- A rank byte of 0 or 1 names a rank. -/
theorem exists_rankOf_eq_some {x : Byte} (h : x.toNat < 2) : ∃ r, rankOf x = some r :=
  ⟨_, dif_pos h⟩

/-- A bank byte above 0FH names no bank. -/
theorem bankOf_of_sixteen_le {x : Byte} (h : 16 ≤ x.toNat) : bankOf x = none :=
  dif_neg (Nat.not_lt.mpr h)

/-- A bank byte up to 0FH names a bank. -/
theorem exists_bankOf_eq_some {x : Byte} (h : x.toNat < 16) : ∃ b, bankOf x = some b :=
  ⟨_, dif_pos h⟩

/-- A class byte above 1 names no class. -/
theorem classOf_of_two_le {x : Byte} (h : 2 ≤ x.toNat) : classOf x = none := by
  unfold classOf
  split
  · omega
  · omega
  · rfl

/-- The identifiers up to 0DH are those of per-rank parameters (R158). -/
theorem deviceValue_of_le_thirteen {n : Nat} (h : n ≤ 13) (s : State) : s.deviceValue n = none := by
  unfold State.deviceValue
  split
  · omega
  · omega
  · rfl

/-- The identifiers 0EH and 0FH are those of device parameters (R158). -/
theorem exists_deviceValue_eq_some {n : Nat} (h : n = 14 ∨ n = 15) (s : State) : ∃ v, s.deviceValue n = some v := by
  rcases h with rfl | rfl
  · exact ⟨_, rfl⟩
  · exact ⟨_, rfl⟩

/-! #### Requests that carry them -/

/-- A per-rank write to no rank is refused before its decision is looked at. -/
theorem writeRank_of_no_rank {rank : Byte} (h : rankOf rank = none) (s : State) (f : Rank → State × ResponseCode) :
    s.writeRank rank f = s.reply .range := by
  simp only [State.writeRank, h]

/-- A READ PARAMETER of a device parameter answers its value, whatever the rank byte. -/
theorem exec_readParameter_of_device {s : State} {identifier : Byte} {v : Nat}
    (h : s.deviceValue identifier.toNat = some v) (rank : Byte) :
    exec (.readParameter identifier rank) s = .next (s.respond .ok (parameterBody identifier rank v)) := by
  show execReadParameter identifier rank s = _
  simp only [execReadParameter, h]

/-- A READ PARAMETER of a per-rank parameter of no rank. -/
theorem exec_readParameter_of_no_rank {s : State} {identifier rank : Byte} (hi : s.deviceValue identifier.toNat = none)
    (hr : rankOf rank = none) : exec (.readParameter identifier rank) s = .next (s.reply .range) := by
  show execReadParameter identifier rank s = _
  simp only [execReadParameter, hi, hr]

/-- READ TABLE of a bank context answers its table. -/
theorem exec_readTable {rank bank : Byte} {r : Rank} {b : Bank} (hr : rankOf rank = some r) (hb : bankOf bank = some b)
    (s : State) :
    exec (.readTable rank bank) s = .next (s.respond .ok (tableBody (s.ceiling r) (s.context r b))) := by
  show execReadTable rank bank s = _
  simp only [execReadTable, hr, hb]

/-- READ TABLE of no rank or no bank. -/
theorem exec_readTable_of_no_operand {rank bank : Byte} (h : rankOf rank = none ∨ bankOf bank = none) (s : State) :
    exec (.readTable rank bank) s = .next (s.reply .range) := by
  show execReadTable rank bank s = _
  unfold execReadTable
  rcases h with hr | hb
  · rw [hr]
  · rw [hb]
    cases rankOf rank <;> rfl

/-- INJECT JOB of no rank, no bank or no class. -/
theorem exec_injectJob_of_no_operand {rank bank cls : Byte}
    (h : rankOf rank = none ∨ bankOf bank = none ∨ classOf cls = none) (s : State) (row : BitVec 24) :
    exec (.injectJob rank bank row cls) s = .next (s.reply .range) := by
  show execInjectJob rank bank row cls s = _
  unfold execInjectJob
  rcases h with hr | hb | hc
  · rw [hr]
  · rw [hb]
    cases rankOf rank <;> rfl
  · rw [hc]
    cases rankOf rank <;> cases bankOf bank <;> rfl

/-- A CLEAR RANK of no rank. -/
theorem exec_clearRank_of_no_rank {rank : Byte} (h : rankOf rank = none) (s : State) :
    exec (.clearRank rank) s = .next (s.reply .range) := by
  show execClearRank rank s = _
  simp only [execClearRank, h]

/-- A WRITE REPAIR of no rank. -/
theorem exec_writeRepair_of_no_rank {rank : Byte} (h : rankOf rank = none) (s : State) (bank spare : Byte)
    (row : BitVec 24) : exec (.writeRepair rank bank row spare) s = .next (s.reply .range) := by
  show execWriteRepair rank bank row spare s = _
  simp only [execWriteRepair, h]

/-- An ERASE REPAIR of no rank. -/
theorem exec_eraseRepair_of_no_rank {rank : Byte} (h : rankOf rank = none) (s : State) (bank : Byte) (row : BitVec 24) :
    exec (.eraseRepair rank bank row) s = .next (s.reply .range) := by
  show execEraseRepair rank bank row s = _
  simp only [execEraseRepair, h]

/-- READ REPAIR of a rank answers its repair list. -/
theorem exec_readRepair {rank : Byte} {r : Rank} (h : rankOf rank = some r) (s : State) :
    exec (.readRepair rank) s = .next (s.respond .ok (repairBody (s.rank r).repairs)) := by
  show execReadRepair rank s = _
  simp only [execReadRepair, h]

/-- READ REPAIR of no rank. -/
theorem exec_readRepair_of_no_rank {rank : Byte} (h : rankOf rank = none) (s : State) :
    exec (.readRepair rank) s = .next (s.reply .range) := by
  show execReadRepair rank s = _
  simp only [execReadRepair, h]

/-- Settles O41, operand by operand: a byte that names nothing leaves each request that carries it one answer. -/
theorem operandsCheckedFirst : Obligations.OperandsCheckedFirst := by
  unfold Obligations.OperandsCheckedFirst
  intro s rank rank' bank cls spare identifier row value
  refine ⟨fun hrank => ?_, fun hbank => ?_, fun hbank => ?_, fun hcls => ?_, fun hrank => ?_, fun hdevice => ?_, rfl, rfl⟩
  · have hr := rankOf_of_two_le hrank
    have hwrite (f : Rank → State × ResponseCode) :
        (.next (s.writeRank rank f) : Answer) = .next (s.reply .range) :=
      congrArg Host.Outcome.next (writeRank_of_no_rank hr s f)
    refine ⟨?_, fun hi => exec_readParameter_of_no_rank (deviceValue_of_le_thirteen hi s) hr⟩
    simp only [List.forall_mem_cons, List.not_mem_nil, false_implies, implies_true, and_true]
    exact ⟨hwrite _, hwrite _, hwrite _, hwrite _, hwrite _, hwrite _, hwrite _, hwrite _, hwrite _, hwrite _, hwrite _,
      hwrite _, hwrite _, hwrite _, exec_readTable_of_no_operand (.inl hr) s, exec_injectJob_of_no_operand (.inl hr) s row,
      exec_clearRank_of_no_rank hr s, exec_writeRepair_of_no_rank hr .., exec_eraseRepair_of_no_rank hr ..,
      exec_readRepair_of_no_rank hr s⟩
  · have hb := bankOf_of_sixteen_le hbank
    exact ⟨exec_readTable_of_no_operand (.inr hb) s, exec_injectJob_of_no_operand (.inr (.inl hb)) s row⟩
  · have hb := repairBankOf_of_seventeen_le hbank
    exact ⟨exec_writeRepair_of_no_bank hb .., exec_eraseRepair_of_no_bank hb ..⟩
  · exact exec_injectJob_of_no_operand (.inr (.inr (classOf_of_two_le hcls))) s row
  · obtain ⟨r, hr⟩ := exists_rankOf_eq_some hrank
    refine ⟨fun hbank => ?_, _, exec_readRepair hr s⟩
    obtain ⟨b, hb⟩ := exists_bankOf_eq_some hbank
    exact ⟨_, exec_readTable hr hb s⟩
  · obtain ⟨v, hv⟩ := exists_deviceValue_eq_some hdevice s
    exact ⟨_, exec_readParameter_of_device hv rank⟩

/-! #### The clearing of a rank (R159, R162) -/

/-- The engine is in WINDOW on a rank when its window is one of that rank. -/
theorem State.windowOn_eq_true_iff {s : State} {r : Rank} :
    s.windowOn r = true ↔ ∃ w, s.engine.window = some w ∧ w.rank = r := by
  unfold State.windowOn
  cases s.engine.window <;> simp

/-- TRACK written with the value it has changes nothing. -/
theorem State.setParams_track_self (s : State) (r : Rank) :
    s.setParams r { s.params r with track := (s.params r).track } = s := by
  match r with
  | 0 => rfl
  | 1 => rfl

/-- The jobs of a rank leave the list: the queue without them, and nothing else. -/
theorem State.dropJobs_eq_queueWithout (s : State) (r : Rank) (tally : Stats → BitVec 32 → Stats) :
    s.dropJobs r tally = { s with queue := s.queueWithout r (tally s.queue.stats (s.listedOf r)) } :=
  rfl

/-- TRACK written and the rank cleared: the parameters and the tables change in one change of the rank, which the queue does
not see, and the staged slot is re-evaluated behind both. -/
theorem State.discardRank_setParams_track (s : State) (r : Rank) (track : Bool) :
    (s.setParams r { s.params r with track := track }).discardRank r =
      (({ s with queue := s.queueWithout r (s.queue.stats.addDiscarded (s.listedOf r)) }).modRank r fun u => { u with
        params := { u.params with track := track }, contexts := Vector.replicate 16 BankContext.empty }).restage := by
  unfold State.discardRank State.setParams State.clearTables
  rw [State.modRank_modRank, State.dropJobs_eq_queueWithout]
  rfl

/-- A TRACK write by its two checks in turn (R159). -/
theorem exec_trackWrite {s : State} {r : Rank} {rank : Byte} (hr : rank.toNat = r.val) (value : BitVec 24) :
    exec (.trackWrite rank value) s = .next
      (if 1 < value.toNat then s.reply .range
      else if s.windowOn r = true then s.reply .busy
      else ((s.setParams r { s.params r with track := value.toNat == 1 }).discardRank r).reply .ok) :=
  congrArg Host.Outcome.next (writeRank_of_refusedIf_refusedIf hr (by rw [Bool.decide_eq_true]))

/-- A CLEAR RANK is the clearing of a TRACK write that leaves TRACK as it is (R162). -/
theorem exec_clearRank {s : State} {r : Rank} {rank : Byte} (hr : rank.toNat = r.val) :
    exec (.clearRank rank) s = .next
      (if s.windowOn r = true then s.reply .busy
      else ((s.setParams r { s.params r with track := (s.params r).track }).discardRank r).reply .ok) := by
  show execClearRank rank s = _
  simp only [execClearRank, rankOf_of_toNat_eq hr, s.setParams_track_self r]

/-- Settles O44: both requests by their equations, a window on the rank first, and the clearing they share by
`State.discardRank_setParams_track`. -/
theorem trackWriteAndClearRank : Obligations.TrackWriteAndClearRank := by
  unfold Obligations.TrackWriteAndClearRank
  intro s r rank value hr tallied cleared busy
  have hcleared (track : Bool) : (s.setParams r { s.params r with track := track }).discardRank r = cleared track :=
    s.discardRank_setParams_track r track
  have hwindow : s.windowOn r = true ↔ busy := State.windowOn_eq_true_iff
  simp only [exec_trackWrite hr, exec_clearRank hr, hcleared]
  refine ⟨fun hrange => ?_, fun hbusy => ⟨fun hle => ?_, ?_⟩, fun hidle => ⟨fun h0 => ?_, fun h1 => ?_, ?_⟩⟩
  · rw [if_pos (Nat.lt_of_succ_le hrange)]
  · rw [if_neg (Nat.not_lt.mpr hle), if_pos (hwindow.mpr hbusy)]
  · rw [if_pos (hwindow.mpr hbusy)]
  · rw [h0, if_neg (by decide), if_neg (mt hwindow.mp hidle)]
    rfl
  · rw [h1, if_neg (by decide), if_neg (mt hwindow.mp hidle)]
    rfl
  · rw [if_neg (mt hwindow.mp hidle)]

end Sys2Proof.Machine
end

section
/-! ### Frames: what the shared operations leave alone

`State.shell` is what neither the tables, nor the queue, nor the engine change; `TableMoves` says besides that everything of a
rank but its tables is kept, and the window. Every operation on tables and queue is a move of the tables. The engine's steps and
the accepted commands keep the shell, so they commute with the passing of a slot. -/

namespace Sys2Proof.Machine

open Sys2Proof

/-! #### The shell -/

/-- The waiting commands, what is to come on the bus, the clocks, the link, the refusal unit and the management port. -/
def State.shell (s : State) : List Instr × List BusEvent × Clock × Link × Refusals × Mgmt :=
  (s.pending, s.wire, s.clock, s.link, s.refusals, s.mgmt)

/-- Two states with one shell agree in its six parts. -/
theorem State.shell_eq_iff {s t : State} : t.shell = s.shell ↔
    t.pending = s.pending ∧ t.wire = s.wire ∧ t.clock = s.clock ∧ t.link = s.link ∧ t.refusals = s.refusals ∧
      t.mgmt = s.mgmt := by
  simp only [State.shell, Prod.mk.injEq]

@[simp] theorem State.shell_modRank (s : State) (r : Rank) (f : RankUnit → RankUnit) : (s.modRank r f).shell = s.shell := rfl
@[simp] theorem State.shell_modContext (s : State) (r : Rank) (b : Bank) (f : BankContext → BankContext) :
    (s.modContext r b f).shell = s.shell := rfl
@[simp] theorem State.shell_setOpen (s : State) (r : Rank) (b : Bank) (v : Bool) : (s.setOpen r b v).shell = s.shell := rfl
@[simp] theorem State.shell_forward (s : State) (n : Nat) (f : FirstBeat) (b : SecondBeat) :
    (s.forward n f b).shell = s.shell := rfl
@[simp] theorem State.shell_engineDrive (s : State) (m : Nat) (r : Rank) (op : BitVec 4) (b : Bank) (x : BitVec 17) :
    (s.engineDrive m r op b x).shell = s.shell := rfl
@[simp] theorem State.shell_startWindow (s : State) (r : Rank) (k : WindowKind) (p : Purpose) (n : Nat) :
    (s.startWindow r k p n).shell = s.shell := rfl
@[simp] theorem State.shell_cover (s : State) (r : Rank) : (s.cover r).shell = s.shell := rfl

/-- The passing of a slot replaces the shell. -/
theorem State.passSlot_eq_reshell {s t : State} (h : t.shell = s.shell) :
    t.passSlot = t.reshell s.pending s.wire s.passSlot.clock s.link s.refusals s.mgmt := by
  obtain ⟨hp, hw, hc, hl, hr, hm⟩ := State.shell_eq_iff.mp h
  rw [← hp, ← hw, ← hl, ← hr, ← hm, State.passSlot, State.passSlot, ← hc]
  rfl

/-! #### Moves of the tables -/

/-- The two states differ at most in the queue, the outcome history and the tables. -/
structure TableMoves (s t : State) : Prop where
  shell : t.shell = s.shell
  bands : t.bands = s.bands
  window : t.engine.window = s.engine.window
  rank : ∀ r, t.rank r = { s.rank r with contexts := (t.rank r).contexts }

theorem TableMoves.refl (s : State) : TableMoves s s :=
  ⟨rfl, rfl, rfl, fun _ => rfl⟩

theorem TableMoves.trans {s t u : State} (h : TableMoves s t) (k : TableMoves t u) : TableMoves s u :=
  ⟨k.shell.trans h.shell, k.bands.trans h.bands, k.window.trans h.window, fun r => by rw [k.rank r, h.rank r]⟩

/-- A move of the queue is one of the tables. -/
theorem QueueMoves.table {s t : State} (h : QueueMoves s t) : TableMoves s t :=
  ⟨State.shell_eq_iff.mpr ⟨h.pending, h.wire, h.clock, h.link, h.refusals, h.mgmt⟩, h.bands, h.window, h.rank⟩

/-- Another queue is a move of the tables. -/
theorem setQueue_moves (s : State) (q : Queue) : TableMoves s { s with queue := q } :=
  ⟨rfl, rfl, rfl, fun _ => rfl⟩

/-- Another table is a move of the tables. -/
theorem modContext_moves (s : State) (r : Rank) (b : Bank) (f : BankContext → BankContext) :
    TableMoves s (s.modContext r b f) :=
  ⟨rfl, rfl, rfl, fun q => rank_modContext s r q b f⟩

/-- An accepted job is a move of the tables. -/
theorem acceptJob_tableMoves (s : State) (r : Rank) (b : Bank) (row : Nat) (k : JobClass) (o : Origin) (n : Nat) :
    TableMoves s (s.acceptJob r b row k o n) :=
  (setQueue_moves s _).trans (acceptJob_moves s r b row k o n).table

/-- An attempt is a move of the tables. -/
theorem enqueueAttempt_tableMoves (s : State) (r : Rank) (b : Bank) (row : Nat) (k : JobClass) (n : Nat) :
    TableMoves s (s.enqueueAttempt r b row k n) := by
  unfold State.enqueueAttempt
  split
  · exact setQueue_moves s _
  · exact acceptJob_tableMoves s r b row k .count n

/-- The evaluation of an entry is a move of the tables. -/
theorem evaluate_tableMoves (s : State) (r : Rank) (b : Bank) (row : Nat) : TableMoves s (s.evaluate r b row) := by
  unfold State.evaluate
  split
  · exact .refl s
  · split
    · split
      · exact (promote_moves s r b row).table
      · exact .refl s
    · split
      · exact enqueueAttempt_tableMoves s r b row _ _
      · exact .refl s

/-- A counted activation is a move of the tables. -/
theorem countActivation_tableMoves (s : State) (r : Rank) (b : Bank) (row : Nat) :
    TableMoves s (s.countActivation r b row) := by
  unfold State.countActivation
  split
  · exact (modContext_moves s r b _).trans (evaluate_tableMoves _ r b row)
  · exact .refl s

section Moves

variable {s t : State}

/-- A move of the tables keeps the parameters. -/
theorem TableMoves.params (h : TableMoves s t) (r : Rank) : t.params r = s.params r := by
  simp only [State.params]
  rw [h.rank r]

/-- A move of the tables keeps the rank states. -/
theorem TableMoves.state (h : TableMoves s t) (r : Rank) : (t.rank r).state = (s.rank r).state := by
  rw [h.rank r]

/-- A move of the tables keeps the beats on the ports. -/
theorem TableMoves.port (h : TableMoves s t) (r : Rank) : (t.rank r).port = (s.rank r).port := by
  rw [h.rank r]

/-- A move of the tables keeps the beats last driven. -/
theorem TableMoves.portOut (h : TableMoves s t) (r : Rank) : (t.rank r).portOut = (s.rank r).portOut := by
  rw [h.rank r]

/-- A move of the tables keeps the states of the banks. -/
theorem TableMoves.isOpen (h : TableMoves s t) (r : Rank) (b : Bank) : t.isOpen r b = s.isOpen r b := by
  simp only [State.isOpen]
  rw [h.rank r]

end Moves

/-! #### The shared operations keep the shell -/

@[simp] theorem State.shell_restage (s : State) : s.restage.shell = s.shell :=
  (restage_moves s).table.shell

@[simp] theorem State.shell_evaluate (s : State) (r : Rank) (b : Bank) (row : Nat) : (s.evaluate r b row).shell = s.shell :=
  (evaluate_tableMoves s r b row).shell

@[simp] theorem State.shell_acceptJob (s : State) (r : Rank) (b : Bank) (row : Nat) (k : JobClass) (o : Origin) (n : Nat) :
    (s.acceptJob r b row k o n).shell = s.shell :=
  (acceptJob_tableMoves s r b row k o n).shell

@[simp] theorem State.shell_countActivation (s : State) (r : Rank) (b : Bank) (row : Nat) :
    (s.countActivation r b row).shell = s.shell :=
  (countActivation_tableMoves s r b row).shell

@[simp] theorem State.shell_take (s : State) (r : Rank) (urgentOnly : Bool) : (s.take r urgentOnly).1.shell = s.shell :=
  (take_moves s r urgentOnly).table.shell

@[simp] theorem State.shell_openStep (s : State) (m : Nat) (w : Window) (j : Job) (v : Nat) :
    (s.openStep m w j v).shell = s.shell :=
  State.shell_countActivation ..

@[simp] theorem State.shell_firstStep (s : State) (m : Nat) : (s.firstStep m).shell = s.shell := by
  unfold State.firstStep
  split
  · split
    · exact State.shell_openStep ..
    · rfl
  · rfl

@[simp] theorem State.shell_countRefresh (s : State) (r : Rank) : (s.countRefresh r).shell = s.shell := by
  unfold State.countRefresh
  split
  · rfl
  · rfl

@[simp] theorem State.shell_convert (s : State) (r : Rank) (j : Job) : (s.convert r j).shell = s.shell :=
  State.shell_restage (s.startWindow r .converted (.job j) (s.params r).refreshLen)

/-- A take keeps the shell. -/
theorem State.shell_of_take {s t : State} {r : Rank} {urgentOnly : Bool} {x : Option Job}
    (h : s.take r urgentOnly = (t, x)) : t.shell = s.shell := by
  rw [← s.shell_take r urgentOnly, h]

/-! #### What an accepted command does, case by case -/

section Accepted

variable {s t : State} {n : Nat} {f : FirstBeat} {b : SecondBeat} {j : Job}

/-- A REFRESH that meets no conversion is forwarded and counted (R103 b). -/
theorem acceptRefresh_of_not_mayConvert (h : s.mayConvert f.rank = false) :
    s.acceptRefresh n f b = (s.forward n f b).countRefresh f.rank := by
  simp only [State.acceptRefresh, h, Bool.false_eq_true, if_false]

/-- A conversion whose take finds no job (R82 b, R103 b). -/
theorem acceptRefresh_of_take_none (h : s.mayConvert f.rank = true) (ht : s.take f.rank true = (t, none)) :
    s.acceptRefresh n f b = (t.restage.forward n f b).countRefresh f.rank := by
  simp only [State.acceptRefresh, h, if_true, ht]

/-- A conversion whose take finds a job (R82 a, R103 a). -/
theorem acceptRefresh_of_take_some (h : s.mayConvert f.rank = true) (ht : s.take f.rank true = (t, some j)) :
    s.acceptRefresh n f b = ((t.convert f.rank j).countRefresh f.rank).firstStep n := by
  simp only [State.acceptRefresh, h, if_true, ht]

/-- A grant whose take finds a job (R81). -/
theorem acceptGrant_of_take_some (ht : s.take f.rank false = (t, some j)) :
    s.acceptGrant n f =
      ((t.startWindow f.rank .granted (.job j) (s.params f.rank).grantLen).restage).firstStep n := by
  simp only [State.acceptGrant, ht]

/-- A grant that finds no job and debt to repay (R87). -/
theorem acceptGrant_of_repay (ht : s.take f.rank false = (t, none))
    (h : 0 < (s.rank f.rank).debt ∧ (s.params f.rank).refreshLen ≤ (s.params f.rank).grantLen) :
    s.acceptGrant n f =
      ((t.startWindow f.rank .granted .repay (s.params f.rank).grantLen).restage).engineDrive n f.rank opRefresh 0 0 := by
  simp only [State.acceptGrant, ht, State.emptyPurpose, if_pos h]

/-- A grant that finds no job and nothing to repay (R88). -/
theorem acceptGrant_of_vacant (ht : s.take f.rank false = (t, none))
    (h : ¬ (0 < (s.rank f.rank).debt ∧ (s.params f.rank).refreshLen ≤ (s.params f.rank).grantLen)) :
    s.acceptGrant n f = (t.startWindow f.rank .granted .vacant (s.params f.rank).grantLen).restage := by
  simp only [State.acceptGrant, ht, State.emptyPurpose, if_neg h]

theorem acceptHeld_of_open (h : f.opcode = opOpen) : s.acceptHeld n f b = s.acceptOpen n f b := by
  simp only [State.acceptHeld, h]; rfl
theorem acceptHeld_of_close (h : f.opcode = opClose) : s.acceptHeld n f b = s.acceptClose n f b := by
  simp only [State.acceptHeld, h]; rfl
theorem acceptHeld_of_closeAll (h : f.opcode = opCloseAll) : s.acceptHeld n f b = s.acceptCloseAll n f b := by
  simp only [State.acceptHeld, h]; rfl
theorem acceptHeld_of_access (h : f.opcode = opRead ∨ f.opcode = opWrite) :
    s.acceptHeld n f b = s.acceptAccess n f b := by
  rcases h with h | h
  · simp only [State.acceptHeld, h]; rfl
  · simp only [State.acceptHeld, h]; rfl
theorem acceptHeld_of_refresh (h : f.opcode = opRefresh) : s.acceptHeld n f b = s.acceptRefresh n f b := by
  simp only [State.acceptHeld, h]; rfl
theorem acceptHeld_of_sleepEnter (h : f.opcode = opSleepEnter) : s.acceptHeld n f b = s.acceptSleepEnter n f b := by
  simp only [State.acceptHeld, h]; rfl
theorem acceptHeld_of_sleepExit (h : f.opcode = opSleepExit) : s.acceptHeld n f b = s.acceptSleepExit n f b := by
  simp only [State.acceptHeld, h]; rfl
theorem acceptHeld_of_mode (h : f.opcode = opModeSet ∨ f.opcode = opModeGet) : s.acceptHeld n f b = s.acceptMode n f b := by
  rcases h with h | h
  · simp only [State.acceptHeld, h]; rfl
  · simp only [State.acceptHeld, h]; rfl
theorem acceptHeld_of_serviceGrant (h : f.opcode = opServiceGrant) : s.acceptHeld n f b = s.acceptGrant n f := by
  simp only [State.acceptHeld, h]; rfl

/-- The opcodes are the eleven defined ones and the others (R117). -/
theorem opcode_cases (op : BitVec 4) :
    op = opOpen ∨ op = opClose ∨ op = opCloseAll ∨ (op = opRead ∨ op = opWrite) ∨ op = opRefresh ∨ op = opSleepEnter ∨
      op = opSleepExit ∨ (op = opModeSet ∨ op = opModeGet) ∨ op = opServiceGrant ∨ opcodeDefined op = false := by
  revert op
  decide

/-- An undefined opcode does nothing; it never passes check 2. -/
theorem acceptHeld_of_undefined (h : opcodeDefined f.opcode = false) : s.acceptHeld n f b = s := by
  have hne : ∀ op ∈ definedOpcodes, (f.opcode == op) = false := fun op hop => by
    refine beq_eq_false_iff_ne.mpr fun he => ?_
    rw [he, opcodeDefined, List.contains_iff_mem.mpr hop] at h
    cases h
  simp only [definedOpcodes, List.forall_mem_cons] at hne
  obtain ⟨h1, h2, h3, h4, h5, h6, h7, h8, h9, h10, h11, -⟩ := hne
  simp only [State.acceptHeld, h1, h2, h3, h4, h5, h6, h7, h8, h9, h10, h11, Bool.false_eq_true, if_false]

end Accepted

/-! #### The accepted commands keep the shell -/

theorem State.shell_acceptRefresh (s : State) (n : Nat) (f : FirstBeat) (b : SecondBeat) :
    (s.acceptRefresh n f b).shell = s.shell := by
  cases hc : s.mayConvert f.rank with
  | false => simp [acceptRefresh_of_not_mayConvert hc]
  | true =>
    rcases ht : s.take f.rank true with ⟨t, _ | j⟩
    · simp [acceptRefresh_of_take_none hc ht, State.shell_of_take ht]
    · simp [acceptRefresh_of_take_some hc ht, State.shell_of_take ht]

theorem State.shell_acceptSleepExit (s : State) (n : Nat) (f : FirstBeat) (b : SecondBeat) :
    (s.acceptSleepExit n f b).shell = s.shell := by
  unfold State.acceptSleepExit
  dsimp only
  split
  · simp
  · simp

theorem State.shell_acceptGrant (s : State) (n : Nat) (f : FirstBeat) : (s.acceptGrant n f).shell = s.shell := by
  rcases ht : s.take f.rank false with ⟨t, _ | j⟩
  · by_cases h : 0 < (s.rank f.rank).debt ∧ (s.params f.rank).refreshLen ≤ (s.params f.rank).grantLen
    · simp [acceptGrant_of_repay ht h, State.shell_of_take ht]
    · simp [acceptGrant_of_vacant ht h, State.shell_of_take ht]
  · simp [acceptGrant_of_take_some ht, State.shell_of_take ht]

theorem State.shell_acceptAccess (s : State) (n : Nat) (f : FirstBeat) (b : SecondBeat) :
    (s.acceptAccess n f b).shell = s.shell := by
  unfold State.acceptAccess
  split
  · rfl
  · rfl

/-- An accepted command keeps the shell. -/
@[simp] theorem State.shell_acceptHeld (s : State) (n : Nat) (f : FirstBeat) (b : SecondBeat) :
    (s.acceptHeld n f b).shell = s.shell := by
  rcases opcode_cases f.opcode with h | h | h | h | h | h | h | h | h | h
  · rw [acceptHeld_of_open h, State.acceptOpen, State.shell_countActivation]
    rfl
  · rw [acceptHeld_of_close h]
    rfl
  · rw [acceptHeld_of_closeAll h]
    rfl
  · rw [acceptHeld_of_access h, State.shell_acceptAccess]
  · rw [acceptHeld_of_refresh h, State.shell_acceptRefresh]
  · rw [acceptHeld_of_sleepEnter h, State.acceptSleepEnter, State.shell_forward, State.shell_restage]
    rfl
  · rw [acceptHeld_of_sleepExit h, State.shell_acceptSleepExit]
  · rw [acceptHeld_of_mode h]
    rfl
  · rw [acceptHeld_of_serviceGrant h, State.shell_acceptGrant]
  · rw [acceptHeld_of_undefined h]

/-! #### The operations commute with the passing of a slot -/

theorem restage_passSlot (s : State) : s.passSlot.restage = s.restage.passSlot := by
  rw [State.passSlot_eq_reshell s.shell_restage, ← restage_reshell]
  rfl

theorem evaluate_passSlot (s : State) (r : Rank) (b : Bank) (row : Nat) :
    s.passSlot.evaluate r b row = (s.evaluate r b row).passSlot := by
  rw [State.passSlot_eq_reshell (s.shell_evaluate r b row), ← evaluate_reshell]
  rfl

theorem countActivation_passSlot (s : State) (r : Rank) (b : Bank) (row : Nat) :
    s.passSlot.countActivation r b row = (s.countActivation r b row).passSlot := by
  rw [State.passSlot_eq_reshell (s.shell_countActivation r b row), ← countActivation_reshell]
  rfl

theorem openStep_passSlot (s : State) (m : Nat) (w : Window) (j : Job) (v : Nat) :
    s.passSlot.openStep m w j v = (s.openStep m w j v).passSlot := by
  rw [State.passSlot_eq_reshell (s.shell_openStep m w j v), ← openStep_reshell]
  rfl

theorem firstStep_passSlot (s : State) (m : Nat) : s.passSlot.firstStep m = (s.firstStep m).passSlot := by
  have hw : s.passSlot.engine.window = s.engine.window := rfl
  unfold State.firstStep
  rw [hw]
  rcases s.engine.window with _ | w
  · rfl
  · dsimp only
    rcases w.nextVictim with _ | ⟨j, v⟩
    · rfl
    · exact openStep_passSlot s m w j v

theorem countRefresh_passSlot (s : State) (r : Rank) : s.passSlot.countRefresh r = (s.countRefresh r).passSlot := by
  have hu : s.passSlot.rank r = s.rank r := rfl
  have hp : s.passSlot.params r = s.params r := rfl
  unfold State.countRefresh
  rw [hu, hp]
  split
  · rfl
  · rfl

theorem take_passSlot (s : State) (r : Rank) (urgentOnly : Bool) :
    s.passSlot.take r urgentOnly = ((s.take r urgentOnly).1.passSlot, (s.take r urgentOnly).2) := by
  rw [State.passSlot_eq_reshell (s.shell_take r urgentOnly), ← take_reshell]
  rfl

theorem startWindow_passSlot (s : State) (r : Rank) (k : WindowKind) (p : Purpose) (n : Nat) :
    s.passSlot.startWindow r k p n = (s.startWindow r k p n).passSlot := rfl

theorem forward_passSlot (s : State) (n : Nat) (f : FirstBeat) (b : SecondBeat) :
    s.passSlot.forward n f b = (s.forward n f b).passSlot := rfl

theorem convert_passSlot (s : State) (r : Rank) (j : Job) : s.passSlot.convert r j = (s.convert r j).passSlot := by
  have hp : s.passSlot.params r = s.params r := rfl
  unfold State.convert
  rw [hp, startWindow_passSlot, restage_passSlot]
  rfl

theorem acceptRefresh_passSlot (s : State) (n : Nat) (f : FirstBeat) (b : SecondBeat) :
    s.passSlot.acceptRefresh n f b = (s.acceptRefresh n f b).passSlot := by
  have hc : s.passSlot.mayConvert f.rank = s.mayConvert f.rank := rfl
  have ht := take_passSlot s f.rank true
  cases hm : s.mayConvert f.rank with
  | false =>
    rw [acceptRefresh_of_not_mayConvert hm, acceptRefresh_of_not_mayConvert (hc.trans hm), forward_passSlot,
      countRefresh_passSlot]
  | true =>
    rcases hs : s.take f.rank true with ⟨t, _ | j⟩
    · rw [hs] at ht
      rw [acceptRefresh_of_take_none hm hs, acceptRefresh_of_take_none (hc.trans hm) ht, restage_passSlot, forward_passSlot,
        countRefresh_passSlot]
    · rw [hs] at ht
      rw [acceptRefresh_of_take_some hm hs, acceptRefresh_of_take_some (hc.trans hm) ht, convert_passSlot,
        countRefresh_passSlot, firstStep_passSlot]

theorem acceptSleepEnter_passSlot (s : State) (n : Nat) (f : FirstBeat) (b : SecondBeat) :
    s.passSlot.acceptSleepEnter n f b = (s.acceptSleepEnter n f b).passSlot := by
  unfold State.acceptSleepEnter
  rw [← forward_passSlot, ← restage_passSlot]
  rfl

theorem acceptSleepExit_passSlot (s : State) (n : Nat) (f : FirstBeat) (b : SecondBeat) :
    s.passSlot.acceptSleepExit n f b = (s.acceptSleepExit n f b).passSlot := by
  have hu : s.passSlot.rank f.rank = s.rank f.rank := rfl
  unfold State.acceptSleepExit
  dsimp only
  rw [hu, ← forward_passSlot, ← restage_passSlot]
  split
  · rfl
  · rfl

theorem acceptGrant_passSlot (s : State) (n : Nat) (f : FirstBeat) :
    s.passSlot.acceptGrant n f = (s.acceptGrant n f).passSlot := by
  have hl : s.passSlot.params f.rank = s.params f.rank := rfl
  have ht := take_passSlot s f.rank false
  rcases hs : s.take f.rank false with ⟨t, _ | j⟩
  · rw [hs] at ht
    by_cases h : 0 < (s.rank f.rank).debt ∧ (s.params f.rank).refreshLen ≤ (s.params f.rank).grantLen
    · rw [acceptGrant_of_repay hs h, acceptGrant_of_repay ht h, hl, startWindow_passSlot, restage_passSlot]
      rfl
    · rw [acceptGrant_of_vacant hs h, acceptGrant_of_vacant ht h, hl, startWindow_passSlot, restage_passSlot]
  · rw [hs] at ht
    rw [acceptGrant_of_take_some hs, acceptGrant_of_take_some ht, hl, startWindow_passSlot, restage_passSlot,
      firstStep_passSlot]

theorem acceptAccess_passSlot (s : State) (n : Nat) (f : FirstBeat) (b : SecondBeat) :
    s.passSlot.acceptAccess n f b = (s.acceptAccess n f b).passSlot := by
  unfold State.acceptAccess
  split
  · rfl
  · rfl

/-- What an accepted command does commutes with the passing of a slot. -/
theorem acceptHeld_passSlot (s : State) (n : Nat) (f : FirstBeat) (b : SecondBeat) :
    s.passSlot.acceptHeld n f b = (s.acceptHeld n f b).passSlot := by
  rcases opcode_cases f.opcode with h | h | h | h | h | h | h | h | h | h
  · rw [acceptHeld_of_open h, acceptHeld_of_open h]
    exact countActivation_passSlot ((s.setOpen f.rank f.bank true).forward n f b) ..
  · rw [acceptHeld_of_close h, acceptHeld_of_close h]
    rfl
  · rw [acceptHeld_of_closeAll h, acceptHeld_of_closeAll h]
    rfl
  · rw [acceptHeld_of_access h, acceptHeld_of_access h, acceptAccess_passSlot]
  · rw [acceptHeld_of_refresh h, acceptHeld_of_refresh h, acceptRefresh_passSlot]
  · rw [acceptHeld_of_sleepEnter h, acceptHeld_of_sleepEnter h, acceptSleepEnter_passSlot]
  · rw [acceptHeld_of_sleepExit h, acceptHeld_of_sleepExit h, acceptSleepExit_passSlot]
  · rw [acceptHeld_of_mode h, acceptHeld_of_mode h]
    rfl
  · rw [acceptHeld_of_serviceGrant h, acceptHeld_of_serviceGrant h, acceptGrant_passSlot]
  · rw [acceptHeld_of_undefined h, acceptHeld_of_undefined h]

end Sys2Proof.Machine
end

section
/-! ### The command link: beats, the acceptance checks and the commands that are only forwarded

Every row that carries a SECOND beat does the same with it (`exec_second_low`, `exec_second_alone`, `exec_second_held`): in
HOLDING FIRST the held opcode's command is decided in the state whose slot is over and that holds nothing any more. The checks
are those of R119 in their order (`checkFailure_eq_firstFailure`). -/

namespace Sys2Proof.Machine

open Sys2Proof

/-! #### Words (R168) -/

/-- The value of two fields side by side. -/
theorem toNat_append_eq {v w : Nat} (x : BitVec v) (y : BitVec w) : (x ++ y).toNat = x.toNat * 2 ^ w + y.toNat := by
  rw [BitVec.toNat_append, Nat.shiftLeft_eq, Nat.mul_comm, ← Nat.two_pow_add_eq_or_of_lt y.isLt]

/-- The places of the fields of a FIRST beat. -/
theorem firstWord_toNat (f : FirstBeat) : (firstWord f).toNat =
    1 * 2 ^ 18 + f.opcode.toNat * 2 ^ 14 + f.rank.val * 2 ^ 13 + f.bank.val * 2 ^ 9 + f.aux.toNat := by
  have hrank : (BitVec.ofNat 1 f.rank.val).toNat = f.rank.val := Nat.mod_eq_of_lt f.rank.isLt
  have hbank : (BitVec.ofNat 4 f.bank.val).toNat = f.bank.val := Nat.mod_eq_of_lt f.bank.isLt
  simp only [firstWord, toNat_append_eq, hrank, hbank, BitVec.toNat_ofNat]
  omega

/-- The places of the fields of a SECOND beat. -/
theorem secondWord_toNat (b : SecondBeat) : (secondWord b).toNat =
    2 * 2 ^ 18 + (if b.parity then 1 else 0) * 2 ^ 17 + b.operand.toNat := by
  simp only [secondWord, toNat_append_eq, BitVec.toNat_ofBool, BitVec.toNat_ofNat]
  cases b.parity <;> simp only [Bool.toNat_true, Bool.toNat_false, if_true, Bool.false_eq_true, if_false] <;> omega

/-- The parity bit adds one to the ones of a SECOND beat. -/
theorem ones_secondWord_parity (x : BitVec 17) :
    ones (secondWord ⟨true, x⟩) = ones (secondWord ⟨false, x⟩) + 1 := by
  have hbit (p : Bool) (i : Nat) : (secondWord ⟨p, x⟩).getLsbD i =
      if i < 17 then x.getLsbD i else if i = 17 then p else (0b10#2).getLsbD (i - 18) := by
    simp only [secondWord, BitVec.getLsbD_append, BitVec.getLsbD_ofBool]
    rcases Nat.lt_trichotomy i 17 with h | rfl | h
    · rw [if_pos (by omega), if_pos h, if_pos h]
    · rfl
    · rw [if_neg (by omega), if_neg (by omega), if_neg (by omega)]
  have hsplit (p : Bool) : ones (secondWord ⟨p, x⟩) =
      (List.range 17).countP (fun i => x.getLsbD i) + ((if p then 1 else 0) + 1) := by
    have hlow : (List.range 17).countP (fun i => (secondWord ⟨p, x⟩).getLsbD i) =
        (List.range 17).countP fun i => x.getLsbD i :=
      List.countP_congr fun i hi => by rw [hbit, if_pos (List.mem_range.mp hi)]
    unfold ones
    rw [show List.range 20 = List.range 17 ++ [17, 18, 19] from rfl, List.countP_append, hlow]
    simp only [List.countP_cons, List.countP_nil, hbit]
    cases p <;> rfl
  rw [hsplit, hsplit]
  rfl

/-- Every engine command has even parity (R168 c). -/
theorem engineSecond_parity (f : FirstBeat) (x : BitVec 17) :
    (ones (firstWord f) + ones (secondWord (engineSecond f x))) % 2 = 0 := by
  have hpar := ones_secondWord_parity x
  cases h : parityEven f ⟨false, x⟩ with
  | true =>
    simp only [engineSecond, h, Bool.not_true]
    simpa [parityEven] using h
  | false =>
    simp only [engineSecond, h, Bool.not_false, hpar]
    have : (ones (firstWord f) + ones (secondWord ⟨false, x⟩)) % 2 ≠ 0 := by simpa [parityEven] using h
    omega

/-- Settles O5: the fields by the value of fields side by side, the parity of engine commands by the parity bit's own one. -/
theorem beatLayout : Obligations.BeatLayout := by
  unfold Obligations.BeatLayout
  exact ⟨firstWord_toNat, secondWord_toNat, fun op r bank operand => engineSecond_parity (engineFirst op r bank) operand⟩

/-- The model builds an engine command as R168 c) lays it out. -/
theorem beatPair_engine (k : Nat) (op : BitVec 4) (r : Rank) (bank : Bank) (operand : BitVec 17) :
    beatPair k (engineFirst op r bank) (engineSecond (engineFirst op r bank) operand) = engineBeats k op r bank operand := by
  have hodd : (!parityEven (engineFirst op r bank) ⟨false, operand⟩) =
      decide ((ones (firstWord (engineFirst op r bank)) + ones (secondWord ⟨false, operand⟩)) % 2 = 1) := by
    rw [parityEven, Bool.eq_iff_iff, Bool.not_eq_true', beq_eq_false_iff_ne, decide_eq_true_eq]
    omega
  unfold engineSecond
  dsimp only
  rw [hodd]
  rfl

/-! #### A vector of 16, place by place -/

/-- Some place of a vector of 16 passes a test. -/
theorem any_toList_eq_true_iff {α : Type} {v : Vector α 16} {p : α → Bool} :
    v.toList.any p = true ↔ ∃ b : Bank, p (v.get b) = true := by
  simp only [List.any_eq_true, Vector.mem_toList_iff, Vector.mem_iff_getElem]
  constructor
  · rintro ⟨x, ⟨i, hi, rfl⟩, hp⟩
    exact ⟨⟨i, hi⟩, hp⟩
  · rintro ⟨b, hp⟩
    exact ⟨v.get b, ⟨b.val, b.isLt, rfl⟩, hp⟩

/-- Some bank of a rank is OPEN. -/
theorem anyOpen_eq_true_iff {s : State} {r : Rank} : s.anyOpen r = true ↔ ∃ k, s.isOpen r k = true :=
  any_toList_eq_true_iff

/-! #### Refusal reports (R133) -/

/-- The opcodes that use a bank, as numbers. -/
theorem usesBank_eq (op : BitVec 4) :
    usesBank op = decide (op.toNat = 1 ∨ op.toNat = 2 ∨ op.toNat = 4 ∨ op.toNat = 5) := by
  revert op
  decide

/-- The report of a held beat is that of R115. -/
theorem heldReport_eq (f : FirstBeat) : heldReport f = incompleteReport f := by
  simp only [heldReport, incompleteReport, usesBank_eq, decide_eq_true_eq]

/-- The column of a READ or WRITE is the operand without its flag (R168). -/
theorem column_eq_and (x : BitVec 17) : (x.setWidth 16).setWidth 17 = x &&& 0x0FFFF#17 := by
  apply BitVec.eq_of_toNat_eq
  have hmask : (0x0FFFF#17).toNat = 2 ^ 16 - 1 := rfl
  rw [BitVec.toNat_and, hmask, Nat.and_two_pow_sub_one_eq_mod]
  simp only [BitVec.toNat_setWidth]
  omega

/-- The report of a refused command is that of R133. -/
theorem commandReport_eq (reason : Reason) (f : FirstBeat) (b : SecondBeat) :
    commandReport reason f b = refusalReport reason f b := by
  have huse : usesOperand f.opcode =
      decide (f.opcode.toNat = 1 ∨ f.opcode.toNat = 9 ∨ f.opcode.toNat = 4 ∨ f.opcode.toNat = 5) := by
    generalize f.opcode = op
    revert op
    decide
  have hflag : hasFlag f.opcode = decide (f.opcode.toNat = 4 ∨ f.opcode.toNat = 5) := by
    generalize f.opcode = op
    revert op
    decide
  have hoperand : (if usesOperand f.opcode then some (passedOperand f.opcode b) else none) =
      if f.opcode.toNat = 1 ∨ f.opcode.toNat = 9 then some b.operand
      else if f.opcode.toNat = 4 ∨ f.opcode.toNat = 5 then some (b.operand &&& 0x0FFFF#17)
      else none := by
    simp only [huse, passedOperand, hflag, decide_eq_true_eq, column_eq_and]
    by_cases h1 : f.opcode.toNat = 1 ∨ f.opcode.toNat = 9
    · rw [if_pos h1, if_pos (by omega), if_neg (by omega)]
    · by_cases h2 : f.opcode.toNat = 4 ∨ f.opcode.toNat = 5
      · rw [if_neg h1, if_pos h2, if_pos (by omega), if_pos h2]
      · rw [if_neg (by omega), if_neg h1, if_neg h2]
  simp only [commandReport, refusalReport, usesBank_eq, decide_eq_true_eq, hoperand]

/-- The pulse of a report stands at the distance, or directly after the latest one scheduled (R134). -/
theorem pulseSlot_of_getLast {l : List Nat} {latest : Nat} (h : l.getLast? = some latest) (n d : Nat) :
    pulseSlot l n d = max (n + d) (latest + 1) := by
  simp only [pulseSlot, h]
  split <;> omega

/-- Settles O9, by the room in the log and the latest pulse scheduled. -/
theorem refusalTakesNumberPulseAndRecord : Obligations.RefusalTakesNumberPulseAndRecord := by
  unfold Obligations.RefusalTakesNumberPulseAndRecord
  intro s n x u pulse
  have hpulse : pulseSlot u.schedule n u.distance = pulse := by
    cases hl : u.schedule.getLast? with
    | none => simp only [pulseSlot, pulse, hl]
    | some latest => simp only [pulseSlot_of_getLast hl, pulse, hl]
  have hreport : s.report n x = { s with refusals := { u with
      schedule := u.schedule ++ [pulseSlot u.schedule n u.distance]
      sequence := u.sequence + 1
      log := if decide (u.log.length < 8) then u.log ++ [{ sequence := u.sequence, report := x }] else u.log
      overflow := if decide (u.log.length < 8) then u.overflow else min 255 (u.overflow + 1) } } := rfl
  rw [hpulse] at hreport
  refine ⟨fun h => ?_, fun h => ?_⟩
  · rw [hreport, decide_eq_true h]
    rfl
  · rw [hreport, decide_eq_false (Nat.not_lt.mpr h)]
    rfl

/-! #### Assembly (R114 to R116) -/

/-- A row that carries a SECOND beat takes it, and does with an accepted command of its own opcode what that opcode does. -/
theorem exec_eq_takeSecond {c : Instr} {b : SecondBeat} (h : secondBeatOf c = some b) :
    ∃ (own : BitVec 4 → Bool) (accepted : State → Nat → FirstBeat → State),
      (∀ s, exec c s = .next (s.takeSecond b own accepted)) ∧
      ∀ t n f, own f.opcode = true → accepted t n f = t.acceptHeld n f b := by
  cases c
  case framingFault x =>
    cases x with
    | second _ => cases h; exact ⟨_, _, fun _ => rfl, fun _ _ _ _ => rfl⟩
    | idle => cases h
    | invalid => cases h
  case openRow => cases h; exact ⟨_, _, fun _ => rfl, fun _ _ _ h => (acceptHeld_of_open (eq_of_beq h)).symm⟩
  case closeBank => cases h; exact ⟨_, _, fun _ => rfl, fun _ _ _ h => (acceptHeld_of_close (eq_of_beq h)).symm⟩
  case closeAll => cases h; exact ⟨_, _, fun _ => rfl, fun _ _ _ h => (acceptHeld_of_closeAll (eq_of_beq h)).symm⟩
  case read => cases h; exact ⟨_, _, fun _ => rfl, fun _ _ _ h => (acceptHeld_of_access (.inl (eq_of_beq h))).symm⟩
  case write => cases h; exact ⟨_, _, fun _ => rfl, fun _ _ _ h => (acceptHeld_of_access (.inr (eq_of_beq h))).symm⟩
  case refresh => cases h; exact ⟨_, _, fun _ => rfl, fun _ _ _ h => (acceptHeld_of_refresh (eq_of_beq h)).symm⟩
  case sleepEnter => cases h; exact ⟨_, _, fun _ => rfl, fun _ _ _ h => (acceptHeld_of_sleepEnter (eq_of_beq h)).symm⟩
  case sleepExit => cases h; exact ⟨_, _, fun _ => rfl, fun _ _ _ h => (acceptHeld_of_sleepExit (eq_of_beq h)).symm⟩
  case modeSet => cases h; exact ⟨_, _, fun _ => rfl, fun _ _ _ h => (acceptHeld_of_mode (.inl (eq_of_beq h))).symm⟩
  case modeGet => cases h; exact ⟨_, _, fun _ => rfl, fun _ _ _ h => (acceptHeld_of_mode (.inr (eq_of_beq h))).symm⟩
  case serviceGrant => cases h; exact ⟨_, _, fun _ => rfl, fun _ _ _ h => (acceptHeld_of_serviceGrant (eq_of_beq h)).symm⟩
  case undefinedOpcode =>
    cases h
    exact ⟨_, _, fun _ => rfl, fun _ _ _ h => (acceptHeld_of_undefined (by simpa using h)).symm⟩
  all_goals cases h

/-- A refusal commutes with the passing of a slot. -/
theorem refuse_passSlot (s : State) (n : Nat) (reason : Reason) (f : FirstBeat) (b : SecondBeat) :
    s.passSlot.refuse n reason f b = (s.refuse n reason f b).passSlot := by
  unfold State.refuse
  dsimp only
  split
  · exact evaluate_passSlot (s.report n (commandReport reason f b)) ..
  · rfl

section Second

variable {c : Instr} {b : SecondBeat} {s : State}

/-- While RESET/ is low a SECOND beat is ignored (R116). -/
theorem exec_second_low (h : secondBeatOf c = some b) (hl : s.link.resetHigh = false) : exec c s = .next s.passSlot := by
  obtain ⟨own, accepted, hexec, -⟩ := exec_eq_takeSecond h
  simp only [hexec, State.takeSecond, hl, Bool.not_false, if_true]

/-- A SECOND beat in NONE is refused FRAMING (R115 a). -/
theorem exec_second_alone (h : secondBeatOf c = some b) (hl : s.link.resetHigh = true) (hh : s.link.held = none) :
    exec c s = .next (s.report s.clock.slot loneReport).passSlot := by
  obtain ⟨own, accepted, hexec, -⟩ := exec_eq_takeSecond h
  simp only [hexec, State.takeSecond, hl, hh, Bool.not_true, Bool.false_eq_true, if_false]

/-- A SECOND beat in HOLDING FIRST completes the held command, which is decided in the state of which the beat's slot is over
(R114, R119). -/
theorem exec_second_held {f : FirstBeat} (h : secondBeatOf c = some b) (hl : s.link.resetHigh = true)
    (hh : s.link.held = some f) :
    exec c s = .next (s.consumed.decideWith s.clock.slot f b fun u => u.acceptHeld s.clock.slot f b) := by
  obtain ⟨own, accepted, hexec, hown⟩ := exec_eq_takeSecond h
  have hdecide : ((s.setHeld none).decideWith s.clock.slot f b fun u => u.acceptHeld s.clock.slot f b).passSlot =
      s.consumed.decideWith s.clock.slot f b fun u => u.acceptHeld s.clock.slot f b := by
    have hcheck : s.consumed.checkFailure f b = (s.setHeld none).checkFailure f b := rfl
    simp only [State.decideWith, hcheck]
    split
    · exact (refuse_passSlot (s.setHeld none) ..).symm
    · exact (acceptHeld_passSlot (s.setHeld none) ..).symm
  rw [hexec, ← hdecide]
  simp only [State.takeSecond, hl, hh, Bool.not_true, Bool.false_eq_true, if_false]
  cases ho : own f.opcode with
  | true => simp only [if_true, hown _ _ _ ho]
  | false => simp only [Bool.false_eq_true, if_false]

end Second

/-- Settles O1, by the definition of a step. -/
theorem stepRunsFrontCommand : Obligations.StepRunsFrontCommand := by
  unfold Obligations.StepRunsFrontCommand
  intro c rest s h
  simp only [step, h]

/-- An IDLE beat in NONE or while RESET/ is low passes its slot. -/
theorem takeIdle_of_none {s : State} (h : s.link.resetHigh = false ∨ s.link.held = none) : s.takeIdle = s.passSlot := by
  unfold State.takeIdle
  rcases h with h | h
  · simp only [h, Bool.not_false, if_true]
  · simp only [h, ite_self]

/-- An IDLE beat in HOLDING FIRST is refused FRAMING (R115 c). -/
theorem takeIdle_of_held {s : State} {f : FirstBeat} (hl : s.link.resetHigh = true) (hh : s.link.held = some f) :
    s.takeIdle = s.consumed.report s.clock.slot (incompleteReport f) := by
  simp only [State.takeIdle, hl, hh, heldReport_eq, Bool.not_true, Bool.false_eq_true, if_false]
  rfl

/-- An INVALID beat while RESET/ is low passes its slot (R116). -/
theorem takeInvalid_of_low {s : State} (h : s.link.resetHigh = false) : s.takeInvalid = s.passSlot := by
  simp only [State.takeInvalid, h, Bool.not_false, if_true]

/-- An INVALID beat in NONE is refused FRAMING (R115 d). -/
theorem takeInvalid_of_none {s : State} (hl : s.link.resetHigh = true) (hh : s.link.held = none) :
    s.takeInvalid = (s.report s.clock.slot loneReport).passSlot := by
  simp only [State.takeInvalid, hl, hh, Bool.not_true, Bool.false_eq_true, if_false]

/-- An INVALID beat in HOLDING FIRST refuses the held beat as an IDLE beat does (R115 e). -/
theorem takeInvalid_of_held {s : State} {f : FirstBeat} (hl : s.link.resetHigh = true) (hh : s.link.held = some f) :
    s.takeInvalid = s.consumed.report s.clock.slot (incompleteReport f) := by
  simp only [State.takeInvalid, hl, hh, heldReport_eq, Bool.not_true, Bool.false_eq_true, if_false]
  rfl

/-- Settles O2, by what waits on the bus and what the IDLE beat meets. -/
theorem emptyQueuePassesIdleSlot : Obligations.EmptyQueuePassesIdleSlot := by
  unfold Obligations.EmptyQueuePassesIdleSlot
  intro s hp
  refine ⟨fun e rest hw => by simp only [step, hp, hw], fun hw => ?_⟩
  have hstep : step s = .next s.takeIdle := by simp only [step, hp, hw, idleSlot]
  refine ⟨fun h => ?_, fun f hl hh => ?_⟩
  · rw [hstep, takeIdle_of_none h]
    rfl
  · rw [hstep, takeIdle_of_held hl hh]

/-- Settles O6, by the level of RESET/ and what the link holds. -/
theorem firstBeatIsHeld : Obligations.FirstBeatIsHeld := by
  unfold Obligations.FirstBeatIsHeld
  intro f s
  refine ⟨fun hl => ?_, fun hl hh => ?_, fun g hl hh => ?_⟩
  · have h : execFirstBeat f s = .next s.passSlot := by simp only [execFirstBeat, hl, Bool.not_false, if_true]
    exact h
  · have h : execFirstBeat f s = .next (s.setHeld (some f)).passSlot := by
      simp only [execFirstBeat, hl, hh, Bool.not_true, Bool.false_eq_true, if_false]
    exact h
  · have h : execFirstBeat f s = .next ((s.setHeld (some f)).report s.clock.slot (incompleteReport g)).passSlot := by
      simp only [execFirstBeat, hl, hh, heldReport_eq, Bool.not_true, Bool.false_eq_true, if_false]
    exact h

/-- In NONE, holding nothing any more changes nothing. -/
theorem consumed_of_none {s : State} (h : s.link.held = none) : s.consumed = s.passSlot := by
  have hl : { s.link with held := none } = s.link := by rw [← h]
  unfold State.consumed
  rw [hl]
  rfl

/-- Settles O7: a SECOND beat under every row by `exec_second_low` and `exec_second_alone`, the other beats by theirs. -/
theorem framingFaultRefusesOnce : Obligations.FramingFaultRefusesOnce := by
  unfold Obligations.FramingFaultRefusesOnce
  intro b s passed alone
  refine ⟨fun hl => ⟨fun x => ?_, fun c hc => exec_second_low hc hl⟩, fun hl hh => ?_, fun g hl hh x hx => ?_⟩
  · cases x with
    | idle => exact congrArg Host.Outcome.next (takeIdle_of_none (.inl hl))
    | second y => exact exec_second_low (b := y) rfl hl
    | invalid => exact congrArg Host.Outcome.next (takeInvalid_of_low hl)
  · have halone : (s.report s.clock.slot loneReport).passSlot = alone := by
      simp only [alone, consumed_of_none hh]
      rfl
    refine ⟨?_, fun c hc => ?_⟩
    · exact congrArg Host.Outcome.next ((takeInvalid_of_none hl hh).trans halone)
    · rw [exec_second_alone hc hl hh, halone]
  · rcases hx with rfl | rfl
    · exact congrArg Host.Outcome.next (takeIdle_of_held hl hh)
    · exact congrArg Host.Outcome.next (takeInvalid_of_held hl hh)

/-! #### The acceptance checks (R119 to R122) -/

/-- The bank check as three lines of R121, of which at most one is about the opcode. -/
theorem bankCheck_eq (s : State) (f : FirstBeat) :
    s.bankCheck f =
      if f.opcode.toNat = 1 then if s.isOpen f.rank f.bank then some .bankOpen else none
      else if f.opcode.toNat = 4 ∨ f.opcode.toNat = 5 then if s.isOpen f.rank f.bank then none else some .bankClosed
      else if f.opcode.toNat = 6 ∨ f.opcode.toNat = 7 ∨ f.opcode.toNat = 12 then
        if s.anyOpen f.rank then some .bankOpen else none
      else none := by
  have hopen : (f.opcode == opOpen) = decide (f.opcode.toNat = 1) := by
    generalize f.opcode = op
    revert op
    decide
  have haccess : [opRead, opWrite].contains f.opcode = decide (f.opcode.toNat = 4 ∨ f.opcode.toNat = 5) := by
    generalize f.opcode = op
    revert op
    decide
  have hrank : [opRefresh, opSleepEnter, opServiceGrant].contains f.opcode =
      decide (f.opcode.toNat = 6 ∨ f.opcode.toNat = 7 ∨ f.opcode.toNat = 12) := by
    generalize f.opcode = op
    revert op
    decide
  simp only [State.bankCheck, hopen, haccess, hrank, decide_eq_true_eq]

/-- The parity check refuses odd parity. -/
theorem parityEven_eq_false_iff {f : FirstBeat} {b : SecondBeat} :
    parityEven f b = false ↔ (ones (firstWord f) + ones (secondWord b)) % 2 = 1 := by
  rw [parityEven, beq_eq_false_iff_ne]
  omega

/-- The opcodes that are not defined, as numbers (R117). -/
theorem opcodeDefined_eq_false_iff {op : BitVec 4} :
    opcodeDefined op = false ↔ op.toNat = 0 ∨ op.toNat = 11 ∨ 13 ≤ op.toNat := by
  revert op
  decide

/-- The engine is in WINDOW on another rank. -/
theorem otherBusy_eq (s : State) (r : Rank) : s.otherBusy r = s.engine.window.any fun w => decide (w.rank ≠ r) := by
  unfold State.otherBusy
  cases s.engine.window with
  | none => rfl
  | some w =>
    rw [Bool.eq_iff_iff]
    simp

/-- One line of the table of checks in front of the others. -/
theorem find_line_cons (cond : Bool) (reason : Reason) (l : List (Bool × Reason)) :
    (((cond, reason) :: l).find? fun line => line.1).map (fun line => line.2) =
      if cond = true then some reason else (l.find? fun line => line.1).map fun line => line.2 := by
  cases cond <;> rfl

/-- The model's checks are those of R119 and R121 in their order. -/
theorem checkFailure_eq_firstFailure (s : State) (f : FirstBeat) (b : SecondBeat) :
    s.checkFailure f b = s.firstFailure f b := by
  have hexit : (f.opcode == opSleepExit) = decide (f.opcode.toNat = 8) := by
    generalize f.opcode = op
    revert op
    decide
  have hgrant : (f.opcode == opServiceGrant) = decide (f.opcode.toNat = 12) := by
    generalize f.opcode = op
    revert op
    decide
  have hopen : (f.opcode == opOpen) = decide (f.opcode.toNat = 1) := by
    generalize f.opcode = op
    revert op
    decide
  have hany : (∃ k, s.isOpen f.rank k = true) ↔ s.anyOpen f.rank = true := anyOpen_eq_true_iff.symm
  simp only [State.firstFailure, State.acceptanceTable, find_line_cons, List.find?_nil, Option.map_none, State.checkFailure,
    Bool.not_eq_true', Bool.and_eq_true, decide_eq_true_eq, beq_iff_eq, bne, hexit, hgrant, hopen,
    decide_eq_false_iff_not, parityEven_eq_false_iff, opcodeDefined_eq_false_iff, otherBusy_eq, bankCheck_eq, hany,
    State.rowOf, openRowOf]
  refine if_congr Iff.rfl rfl (if_congr Iff.rfl rfl (if_congr Iff.rfl rfl (if_congr Iff.rfl rfl (if_congr Iff.rfl rfl
    (if_congr Iff.rfl rfl ?_)))))
  by_cases h1 : f.opcode.toNat = 1
  · cases ho : s.isOpen f.rank f.bank <;> simp [h1]
  · by_cases h2 : f.opcode.toNat = 4 ∨ f.opcode.toNat = 5
    · have h6 : ¬ (f.opcode.toNat = 6 ∨ f.opcode.toNat = 7 ∨ f.opcode.toNat = 12) := by omega
      cases ho : s.isOpen f.rank f.bank <;> simp [h1, h2, h6]
    · by_cases h3 : f.opcode.toNat = 6 ∨ f.opcode.toNat = 7 ∨ f.opcode.toNat = 12
      · cases ho : s.anyOpen f.rank <;> simp [h1, h2, h3]
      · simp [h1, h2, h3]

/-- Which checks fail does not depend on the slot or on what the link holds. -/
theorem firstFailure_consumed (s : State) (f : FirstBeat) (b : SecondBeat) :
    s.consumed.firstFailure f b = s.firstFailure f b := rfl

section Decided

variable {c : Instr} {b : SecondBeat} {s : State} {f : FirstBeat}

/-- A complete command that fails a check is refused (R119). -/
theorem exec_refused {reason : Reason} (h : secondBeatOf c = some b) (hl : s.link.resetHigh = true)
    (hh : s.link.held = some f) (hf : s.firstFailure f b = some reason) :
    exec c s = .next (s.consumed.refuse s.clock.slot reason f b) := by
  rw [exec_second_held h hl hh]
  simp only [State.decideWith, checkFailure_eq_firstFailure, firstFailure_consumed, hf]

/-- A complete command that passes the checks is accepted (R123). -/
theorem exec_accepted (h : secondBeatOf c = some b) (hl : s.link.resetHigh = true) (hh : s.link.held = some f)
    (hf : s.firstFailure f b = none) : exec c s = .next (s.consumed.acceptHeld s.clock.slot f b) := by
  rw [exec_second_held h hl hh]
  simp only [State.decideWith, checkFailure_eq_firstFailure, firstFailure_consumed, hf]

/-- A refusal for another reason than ROW HOLD is its report (R122). -/
theorem refuse_of_ne_rowHold {reason : Reason} (h : reason ≠ .rowHold) (n : Nat) :
    s.refuse n reason f b = s.report n (refusalReport reason f b) := by
  simp only [State.refuse, if_neg h, commandReport_eq]

/-- A refusal ROW HOLD is its report and the evaluation of the row (R14, R122). -/
theorem refuse_rowHold (n : Nat) :
    s.refuse n .rowHold f b =
      (s.report n (refusalReport .rowHold f b)).evaluate f.rank f.bank (b.operand.toNat % (s.params f.rank).rows) := by
  simp only [State.refuse, if_true, commandReport_eq]
  rfl

end Decided

/-- The row of the held opcode carries the SECOND beat. -/
theorem secondBeatOf_heldRow (f : FirstBeat) (b : SecondBeat) : secondBeatOf (heldRow f b) = some b := by
  unfold heldRow
  split <;> rfl

/-- Settles O8: what a row does with the beat does not depend on the row, and the checks are those of R119. -/
theorem firstFailingCheckRefuses : Obligations.FirstFailingCheckRefuses := by
  unfold Obligations.FirstFailingCheckRefuses
  refine ⟨fun c b s f reason hc hl hh hf hne => ?_, fun b s f hs hop => ?_, fun c b s f hc hh => ?_⟩
  · rw [exec_refused hc hl hh hf, refuse_of_ne_rowHold hne]
  · obtain ⟨hl, hh, -, hpar⟩ := hs
    have hf : s.firstFailure f b = some .undefined := by
      simp only [State.firstFailure, State.acceptanceTable, find_line_cons, hpar, hop, decide_true, if_true]
      rfl
    have hreport : refusalReport .undefined f b =
        { reason := .undefined, source := some (f.opcode, f.rank), bank := none, operand := none } := by
      simp only [refusalReport]
      rw [if_neg (by omega), if_neg (by omega), if_neg (by omega)]
    rw [exec_refused rfl hl hh hf, refuse_of_ne_rowHold (by decide), hreport]
  · cases hl : s.link.resetHigh with
    | false => rw [exec_second_low hc hl, exec_second_low (secondBeatOf_heldRow f b) hl]
    | true => rw [exec_second_held hc hl hh, exec_second_held (secondBeatOf_heldRow f b) hl hh]

end Sys2Proof.Machine
end

section
/-! ### The command link: which complete commands pass the checks, and the ones that are forwarded

A complete command of an AWAKE rank passes checks 1 to 6, a SERVICE GRANT with the engine IDLE; what is left is the bank check
and, for an OPEN, the hold check (R119, R121, R122). -/

namespace Sys2Proof.Machine

open Sys2Proof

section Passes

variable {s : State} {op : BitVec 4} {f : FirstBeat} {b : SecondBeat}

/-- The checks that an AWAKE rank leaves: the bank check, then the hold check (R119, checks 7 and 8). -/
theorem firstFailure_of_awake (hs : s.Completes op f b) (ha : (s.rank f.rank).state = .awake)
    (hd : opcodeDefined op = true) (he : op ≠ opSleepExit) (hg : op ≠ opServiceGrant ∨ s.engine.window = none) :
    s.firstFailure f b = (s.bankCheck f).or
      (if op = opOpen ∧ s.rowHeld f.rank f.bank (b.operand.toNat % (s.params f.rank).rows) = true then some .rowHold
        else none) := by
  obtain ⟨-, -, rfl, hpar⟩ := hs
  have heven : parityEven f b = true := beq_iff_eq.mpr hpar
  have hbusy : (f.opcode == opServiceGrant && s.otherBusy f.rank) = false := by
    rcases hg with hne | hw
    · rw [beq_eq_false_iff_ne.mpr hne, Bool.false_and]
    · simp only [State.otherBusy, hw, Bool.and_false]
  rw [← checkFailure_eq_firstFailure]
  simp only [State.checkFailure, heven, hd, ha, hbusy, beq_eq_false_iff_ne.mpr he, Bool.not_true, Bool.and_false,
    Bool.false_eq_true, if_false, reduceCtorEq, beq_iff_eq, Bool.and_eq_true, State.rowOf, openRowOf]
  cases s.bankCheck f <;> rfl

/-- A command that does not use the bank check and is no OPEN passes. -/
theorem passes_of_no_bank (hs : s.Completes op f b) (ha : (s.rank f.rank).state = .awake)
    (hop : op = opClose ∨ op = opCloseAll ∨ op = opModeSet ∨ op = opModeGet) : s.firstFailure f b = none := by
  have hnum : f.opcode.toNat = 2 ∨ f.opcode.toNat = 3 ∨ f.opcode.toNat = 9 ∨ f.opcode.toNat = 10 := by
    rw [hs.opcode]
    rcases hop with rfl | rfl | rfl | rfl <;> decide
  rw [firstFailure_of_awake hs ha (by rcases hop with rfl | rfl | rfl | rfl <;> rfl)
    (by rcases hop with rfl | rfl | rfl | rfl <;> decide) (.inl (by rcases hop with rfl | rfl | rfl | rfl <;> decide)), bankCheck_eq,
    if_neg (by omega), if_neg (by omega), if_neg (by omega),
    if_neg fun h => by rcases hop with rfl | rfl | rfl | rfl <;> exact absurd h.1 (by decide)]
  rfl

/-- A READ or WRITE of an OPEN bank passes. -/
theorem passes_of_access (hs : s.Completes op f b) (ha : (s.rank f.rank).state = .awake)
    (hopen : s.isOpen f.rank f.bank = true) (hop : op = opRead ∨ op = opWrite) : s.firstFailure f b = none := by
  have hnum : f.opcode.toNat = 4 ∨ f.opcode.toNat = 5 := by
    rw [hs.opcode]
    rcases hop with rfl | rfl <;> decide
  rw [firstFailure_of_awake hs ha (by rcases hop with rfl | rfl <;> rfl) (by rcases hop with rfl | rfl <;> decide)
    (.inl (by rcases hop with rfl | rfl <;> decide)), bankCheck_eq, if_neg (by omega), if_pos hnum, if_pos hopen,
    if_neg fun h => by rcases hop with rfl | rfl <;> exact absurd h.1 (by decide)]
  rfl

/-- A REFRESH, SLEEP ENTER or SERVICE GRANT to a rank with every bank CLOSED passes, a grant with the engine IDLE. -/
theorem passes_of_closed (hs : s.Completes op f b) (ha : (s.rank f.rank).state = .awake)
    (hclosed : ∀ k, s.isOpen f.rank k = false)
    (hop : op = opRefresh ∨ op = opSleepEnter ∨ (op = opServiceGrant ∧ s.engine.window = none)) :
    s.firstFailure f b = none := by
  have hnum : f.opcode.toNat = 6 ∨ f.opcode.toNat = 7 ∨ f.opcode.toNat = 12 := by
    rw [hs.opcode]
    rcases hop with rfl | rfl | ⟨rfl, -⟩ <;> decide
  have hnone : ¬ s.anyOpen f.rank = true := fun h => by
    obtain ⟨k, hk⟩ := anyOpen_eq_true_iff.mp h
    rw [hclosed k] at hk
    cases hk
  rw [firstFailure_of_awake hs ha (by rcases hop with rfl | rfl | ⟨rfl, -⟩ <;> rfl)
    (by rcases hop with rfl | rfl | ⟨rfl, -⟩ <;> decide)
    (by
      rcases hop with rfl | rfl | ⟨-, hw⟩
      · exact .inl (by decide)
      · exact .inl (by decide)
      · exact .inr hw), bankCheck_eq, if_neg (by omega), if_neg (by omega), if_pos hnum, if_neg hnone,
    if_neg fun h => by rcases hop with rfl | rfl | ⟨rfl, -⟩ <;> exact absurd h.1 (by decide)]
  rfl

/-- What is left of the checks for an OPEN of a CLOSED bank: the hold check. -/
theorem firstFailure_of_open (hs : s.Completes opOpen f b) (ha : (s.rank f.rank).state = .awake)
    (hclosed : s.isOpen f.rank f.bank = false) :
    s.firstFailure f b =
      if s.rowHeld f.rank f.bank (b.operand.toNat % (s.params f.rank).rows) = true then some .rowHold else none := by
  have hnum : f.opcode.toNat = 1 := by
    rw [hs.opcode]
    decide
  rw [firstFailure_of_awake hs ha rfl (by decide) (.inl (by decide)), bankCheck_eq, if_pos hnum, hclosed]
  simp

/-- A SLEEP EXIT of a rank that is ASLEEP passes. -/
theorem passes_of_sleepExit (hs : s.Completes opSleepExit f b) (ha : (s.rank f.rank).state = .asleep) :
    s.firstFailure f b = none := by
  obtain ⟨-, -, hop, hpar⟩ := hs
  have hnum : f.opcode.toNat = 8 := by
    rw [hop]
    decide
  simp only [State.firstFailure, State.acceptanceTable, find_line_cons, hpar, hnum, ha]
  simp

end Passes

/-! #### Accepted commands that are only forwarded -/

/-- A forwarded command stands on its port as R127 says. -/
theorem forward_eq_modRank (s : State) (n : Nat) (f : FirstBeat) (b : SecondBeat) :
    s.forward n f b = s.modRank f.rank fun u => { u with port := u.forwarding n f b } :=
  rfl

/-- A rank with another value for its banks and a forwarded command, in one change. -/
theorem modRank_forward (s : State) (n : Nat) (f : FirstBeat) (b : SecondBeat) (g : RankUnit → RankUnit)
    (hg : ∀ u, (g u).port = u.port) :
    (s.modRank f.rank g).forward n f b = s.modRank f.rank fun u => { g u with port := u.forwarding n f b } := by
  rw [forward_eq_modRank, State.modRank_modRank]
  congr 1
  funext u
  simp only [RankUnit.forwarding, hg]

/-- Settles O11: each command passes, and its acceptance is one change of its rank. -/
theorem closeAndModeCommandsForwarded : Obligations.CloseAndModeCommandsForwarded := by
  unfold Obligations.CloseAndModeCommandsForwarded
  intro s f b after ha
  refine ⟨fun hs => ?_, fun hs => ?_, fun hs => ?_, fun hs => ?_⟩
  · rw [exec_accepted (b := b) rfl hs.line hs.held (passes_of_no_bank hs ha (.inl rfl)), acceptHeld_of_close hs.opcode]
    exact congrArg Host.Outcome.next (modRank_forward s.consumed s.clock.slot f b _ fun _ => rfl)
  · rw [exec_accepted (b := b) rfl hs.line hs.held (passes_of_no_bank hs ha (.inr (.inl rfl))),
      acceptHeld_of_closeAll hs.opcode]
    exact congrArg Host.Outcome.next (modRank_forward s.consumed s.clock.slot f b _ fun _ => rfl)
  · rw [exec_accepted (b := b) rfl hs.line hs.held (passes_of_no_bank hs ha (.inr (.inr (.inl rfl)))),
      acceptHeld_of_mode (.inl hs.opcode)]
    rfl
  · rw [exec_accepted (b := b) rfl hs.line hs.held (passes_of_no_bank hs ha (.inr (.inr (.inr rfl)))),
      acceptHeld_of_mode (.inr hs.opcode)]
    rfl

/-- The close-after flag is bit 16 of the operand (R168). -/
theorem closeAfter_eq_true_iff {b : SecondBeat} : closeAfter b = true ↔ 2 ^ 16 ≤ b.operand.toNat := by
  have hlt := b.operand.isLt
  rw [closeAfter, BitVec.getLsbD, Nat.testBit_eq_decide_div_mod_eq, decide_eq_true_eq]
  omega

/-- An accepted READ or WRITE in one change of its rank. -/
theorem acceptAccess_eq (s : State) (n : Nat) (f : FirstBeat) (b : SecondBeat) :
    s.acceptAccess n f b = s.modRank f.rank fun u => { u with
      bankOpen := if 2 ^ 16 ≤ b.operand.toNat then u.bankOpen.set f.bank.val false f.bank.isLt else u.bankOpen
      port := u.forwarding n f b } := by
  unfold State.acceptAccess
  by_cases h : 2 ^ 16 ≤ b.operand.toNat
  · simp only [closeAfter_eq_true_iff.mpr h, if_true, if_pos h]
    exact modRank_forward s n f b _ fun _ => rfl
  · simp only [mt closeAfter_eq_true_iff.mp h, if_neg h]
    rfl

/-- Settles O12: READ and WRITE are one acceptance. -/
theorem accessForwardedWithCloseAfter : Obligations.AccessForwardedWithCloseAfter := by
  unfold Obligations.AccessForwardedWithCloseAfter
  intro s f b after ha hopen
  refine ⟨fun hs => ?_, fun hs => ?_⟩
  · rw [exec_accepted (b := b) rfl hs.line hs.held (passes_of_access hs ha hopen (.inl rfl)),
      acceptHeld_of_access (.inl hs.opcode), acceptAccess_eq]
  · rw [exec_accepted (b := b) rfl hs.line hs.held (passes_of_access hs ha hopen (.inr rfl)),
      acceptHeld_of_access (.inr hs.opcode), acceptAccess_eq]

/-- An accepted OPEN: one change of its rank, then the counted activation. -/
theorem acceptOpen_eq (s : State) (n : Nat) (f : FirstBeat) (b : SecondBeat) :
    s.acceptOpen n f b = (s.modRank f.rank fun u => { u with
      bankOpen := u.bankOpen.set f.bank.val true f.bank.isLt
      port := u.forwarding n f b }).countActivation f.rank f.bank (b.operand.toNat % (s.params f.rank).rows) :=
  congrArg (State.countActivation · f.rank f.bank _) (modRank_forward s n f b _ fun _ => rfl)

/-- Settles O13: an OPEN of a row that is not held passes. -/
theorem openForwardedAndCounted : Obligations.OpenForwardedAndCounted := by
  unfold Obligations.OpenForwardedAndCounted
  intro s f b row forwarded hs ha hclosed hheld
  have hpass : s.firstFailure f b = none := by
    rw [firstFailure_of_open hs ha hclosed, if_neg (Bool.eq_false_iff.mp hheld)]
  rw [exec_accepted (b := b) rfl hs.line hs.held hpass, acceptHeld_of_open hs.opcode, acceptOpen_eq]
  rfl

/-! #### ROW HOLD (R13, R14, R122) -/

/-- Settles O10: the refusal evaluates the entry, whose count has reached the ceiling and so both thresholds. -/
theorem rowHoldRefusesAndEvaluates : Obligations.RowHoldRefusesAndEvaluates := by
  unfold Obligations.RowHoldRefusesAndEvaluates
  intro s f b e row refused hs ha hclosed hparams hfind hcount
  have hheld : s.rowHeld f.rank f.bank row = true := by
    simp only [State.rowHeld, hfind]
    exact decide_eq_true hcount
  have hreport : refusalReport .rowHold f b =
      { reason := .rowHold, source := some (f.opcode, f.rank), bank := some f.bank, operand := some b.operand } := by
    have hnum : f.opcode.toNat = 1 := by
      rw [hs.opcode]
      decide
    simp only [refusalReport, hnum, true_or, if_true]
  have hexec : exec (.openRow b) s = .next (refused.evaluate f.rank f.bank row) := by
    rw [exec_refused (b := b) rfl hs.line hs.held ((firstFailure_of_open hs ha hclosed).trans (if_pos hheld)), refuse_rowHold,
      hreport]
    rfl
  obtain ⟨-, -, -, horder⟩ := effectiveThresholdsDerated s f.rank
  obtain ⟨-, hSU, hUC, -, -⟩ := horder hparams
  have hU : refused.urgentLevel f.rank ≤ e.count := hUC.trans hcount
  have hS : refused.serviceLevel f.rank ≤ e.count := hSU.trans hU
  obtain ⟨-, hdecides⟩ := evaluationDecides refused f.rank f.bank row
  obtain ⟨-, hfull, -, hroom, -, hurgent, hnormal⟩ := hdecides e hfind
  refine ⟨fun hm hl => ?_, fun hm hl => ?_, fun hm hl => ?_, fun hm hl => ?_⟩
  · rw [hexec, hurgent hm hU hl]
  · rw [hexec, hnormal hm hU hl]
  · rw [hexec, hfull hm hS hl]
    rfl
  · rw [hexec, hroom hm hS hl hU]

end Sys2Proof.Machine
end

section
/-! ### Row activity tables: activations, injections, halvings

Each operation on a table by its cases (R5 to R8, R17 to R19), and what each keeps: `BankContext.Legal`, the rows that are named,
and the rows that are marked. -/

namespace Sys2Proof.Machine

open Sys2Proof

/-! #### Entries created and evicted (R6, R7, R18) -/

/-- An entry created at the tail. -/
def BankContext.create (c : BankContext) (fresh : Entry) : BankContext := { c with entries := c.entries ++ [fresh] }

/-- Some entry of the row is marked. -/
def BankContext.MarksRow (c : BankContext) (row : Nat) : Prop := ∃ e ∈ c.entries, e.row = row ∧ e.mark = true

/-- A table names a row when an entry does. -/
theorem names_eq_false_iff {c : BankContext} {row : Nat} : c.names row = false ↔ ∀ e ∈ c.entries, e.row ≠ row := by
  simp [BankContext.names]

section Activate

variable {c : BankContext} {ceiling row : Nat}

/-- An activation of a row with an entry raises it (R5). -/
theorem activate_of_names (h : c.names row = true) : c.activate ceiling row = c.change row Entry.raise := by
  simp only [BankContext.activate, h, if_true]

/-- An activation of a new row with room in the table creates its entry (R6). -/
theorem activate_of_room (h : c.names row = false) (hroom : c.entries.length < 12) :
    c.activate ceiling row = c.create { row := row, count := 1, inherited := false, mark := false } := by
  simp only [BankContext.activate, h, Bool.false_eq_true, if_false]
  exact if_pos hroom

/-- An activation of a new row in a full table replaces the entry that R7 evicts. -/
theorem activate_of_evictee {e : Entry} (h : c.names row = false) (hfull : ¬ c.entries.length < 12)
    (he : c.evictee ceiling = some e) :
    c.activate ceiling row = c.replace e { row := row, count := e.count + 1, inherited := true, mark := false } := by
  simp only [BankContext.activate, h, Bool.false_eq_true, if_false, he]
  exact if_neg hfull

/-- An activation of a new row in a full table with nothing to replace is counted as untracked (R8). -/
theorem activate_of_no_evictee (h : c.names row = false) (hfull : ¬ c.entries.length < 12)
    (he : c.evictee ceiling = none) :
    c.activate ceiling row = { c with untracked := min 65535 (c.untracked + 1), saturated := true } := by
  simp only [BankContext.activate, h, Bool.false_eq_true, if_false, he]
  exact if_neg hfull

/-- The injection of a row with an entry uses it (R18). -/
theorem inject_of_names (h : c.names row = true) : c.inject ceiling row = some c := by
  simp only [BankContext.inject, h, if_true]

/-- The injection of a new row with room in the table creates its entry (R18). -/
theorem inject_of_room (h : c.names row = false) (hroom : c.entries.length < 12) :
    c.inject ceiling row = some (c.create { row := row, count := 0, inherited := false, mark := false }) := by
  simp only [BankContext.inject, h, Bool.false_eq_true, if_false]
  exact if_pos hroom

/-- The injection of a new row into a full table replaces the entry that R7 evicts (R18). -/
theorem inject_of_evictee {e : Entry} (h : c.names row = false) (hfull : ¬ c.entries.length < 12)
    (he : c.evictee ceiling = some e) :
    c.inject ceiling row = some (c.replace e { row := row, count := e.count, inherited := true, mark := false }) := by
  simp only [BankContext.inject, h, Bool.false_eq_true, if_false, he]
  exact if_neg hfull

/-- The injection of a new row into a full table with nothing to replace is refused (R18). -/
theorem inject_of_no_evictee (h : c.names row = false) (hfull : ¬ c.entries.length < 12)
    (he : c.evictee ceiling = none) : c.inject ceiling row = none := by
  simp only [BankContext.inject, h, Bool.false_eq_true, if_false, he]
  exact if_neg hfull

/-- Nothing is replaceable when every entry is marked or held (R7). -/
theorem evictee_eq_none (h : ∀ x ∈ c.entries, x.mark = true ∨ ceiling ≤ x.count) : c.evictee ceiling = none := by
  refine leastCount_eq_none.mpr (List.filter_eq_nil_iff.mpr fun x hx => ?_)
  rcases h x hx with hm | hc
  · simp [Entry.replaceable, hm]
  · simp [Entry.replaceable, Entry.held, hc]

/-- What the evicted entry is: one of the table, neither marked nor held (R7). -/
theorem evictee_spec {e : Entry} (h : c.evictee ceiling = some e) :
    e ∈ c.entries ∧ e.mark = false ∧ e.count < ceiling := by
  obtain ⟨before, behind, heq, -, -⟩ := leastCount_spec h
  have hmem : e ∈ c.entries.filter (Entry.replaceable ceiling) := by simp [heq]
  obtain ⟨he, hr⟩ := List.mem_filter.mp hmem
  simp only [Entry.replaceable, Entry.held, Bool.and_eq_true, Bool.not_eq_true', decide_eq_false_iff_not, not_le] at hr
  exact ⟨he, hr⟩

/-- The evicted entry is the oldest of those with the smallest count among the replaceable (R7). -/
theorem evictee_of_least {before behind : List Entry} {e : Entry} (hl : c.entries = before ++ e :: behind)
    (hm : e.mark = false) (hc : e.count < ceiling)
    (hb : ∀ x ∈ before, x.mark = false → x.count < ceiling → e.count < x.count)
    (ha : ∀ x ∈ behind, x.mark = false → x.count < ceiling → e.count ≤ x.count) : c.evictee ceiling = some e := by
  have hrep {x : Entry} : Entry.replaceable ceiling x = true ↔ x.mark = false ∧ x.count < ceiling := by
    simp [Entry.replaceable, Entry.held]
  have he : (e :: behind).filter (Entry.replaceable ceiling) = e :: behind.filter (Entry.replaceable ceiling) :=
    List.filter_cons_of_pos (hrep.mpr ⟨hm, hc⟩)
  rw [BankContext.evictee, hl, List.filter_append, he]
  refine leastCount_append (fun x hx => ?_) fun x hx => ?_
  · obtain ⟨hx, hr⟩ := List.mem_filter.mp hx
    exact hb x hx (hrep.mp hr).1 (hrep.mp hr).2
  · obtain ⟨hx, hr⟩ := List.mem_filter.mp hx
    exact ha x hx (hrep.mp hr).1 (hrep.mp hr).2

/-- The replacement of the oldest entry of the smallest count takes it out of its place (R7). -/
theorem replace_of_least {before behind : List Entry} {e : Entry} (hl : c.entries = before ++ e :: behind)
    (hm : e.mark = false) (hc : e.count < ceiling)
    (hb : ∀ x ∈ before, x.mark = false → x.count < ceiling → e.count < x.count) (fresh : Entry) :
    c.replace e fresh = { c with entries := before ++ behind ++ [fresh], floor := e.count } := by
  have hnot : e ∉ before := fun h => lt_irrefl _ (hb e h hm hc)
  simp only [BankContext.replace, hl, List.erase_append_right _ hnot, List.erase_cons_head]

/-- The change of an entry that alone names its row. -/
theorem change_of_unique {before behind : List Entry} {e : Entry} (hl : c.entries = before ++ e :: behind)
    (he : e.row = row) (hne : ∀ x ∈ before ++ behind, x.row ≠ row) (f : Entry → Entry) :
    c.change row f = { c with entries := before ++ f e :: behind } := by
  have hid (l : List Entry) (h : ∀ x ∈ l, x.row ≠ row) : (l.map fun x => if x.row = row then f x else x) = l :=
    (List.map_congr_left (g := id) fun x hx => if_neg (h x hx)).trans (List.map_id l)
  simp only [BankContext.change, hl, List.map_append, List.map_cons, if_pos he,
    hid before fun x hx => hne x (List.mem_append_left _ hx), hid behind fun x hx => hne x (List.mem_append_right _ hx)]

end Activate

/-- With TRACK ON an activation updates the table and evaluates its row (R9). -/
theorem countActivation_of_track {s : State} {r : Rank} (h : (s.params r).track = true) (b : Bank) (row : Nat) :
    s.countActivation r b row =
      (s.modContext r b (BankContext.activate (s.ceiling r) row)).evaluate r b row := by
  simp only [State.countActivation, h, if_true]

/-- A table changed by a function is a table replaced by what the function makes of it. -/
theorem modContext_eq_const (s : State) (r : Rank) (b : Bank) (g : BankContext → BankContext) :
    s.modContext r b g = s.modContext r b fun _ => g (s.context r b) := by
  match r with
  | 0 => rfl
  | 1 => rfl

/-- Settles O14, by the cases of `BankContext.activate`; an activation that is counted as untracked leaves no entry of its row to
evaluate. -/
theorem countedActivationUpdatesTable : Obligations.CountedActivationUpdatesTable := by
  unfold Obligations.CountedActivationUpdatesTable
  intro s r b row c ceiling becomes
  refine ⟨fun hoff => by simp only [State.countActivation, hoff, Bool.false_eq_true, if_false], fun hon => ?_⟩
  have hcount : s.countActivation r b row = (s.modContext r b fun _ => c.activate ceiling row).evaluate r b row := by
    rw [countActivation_of_track hon, modContext_eq_const]
  refine ⟨fun before e behind hl he hne => ?_, fun hnew => ?_⟩
  · have hnames : c.names row = true := by simp [BankContext.names, hl, he]
    show _ = _
    rw [hcount, activate_of_names hnames, change_of_unique hl he hne]
    rfl
  · have hnames : c.names row = false := names_eq_false_iff.mpr hnew
    refine ⟨fun hroom => ?_, fun before e behind hlen hl hm hc hb ha => ?_, fun hlen hall => ?_⟩
    · show _ = _
      rw [hcount, activate_of_room hnames hroom]
      rfl
    · show _ = _
      rw [hcount, activate_of_evictee hnames (by omega) (evictee_of_least hl hm hc hb ha), replace_of_least hl hm hc hb]
    · rw [hcount, activate_of_no_evictee hnames (by omega) (evictee_eq_none hall)]
      refine evaluate_of_find_eq_none ?_
      rw [State.context_modContext_same]
      exact List.find?_eq_none.mpr fun x hx => by simpa using hnew x hx

/-! #### The halving of a table (R19) -/

/-- The halving removes the unmarked entries that fall to 0 before it halves the others. -/
theorem halve_eq (c : BankContext) : c.halve =
    { entries := (c.entries.filter fun e => e.mark || decide (2 ≤ e.count)).map fun e => { e with count := e.count / 2 }
      floor := c.floor / 2
      untracked := c.untracked
      saturated := false } := by
  have hp : ((fun e : Entry => e.mark || decide (0 < e.count)) ∘ fun e : Entry => { e with count := e.count / 2 }) =
      fun e => e.mark || decide (2 ≤ e.count) := by
    funext e
    have : 0 < e.count / 2 ↔ 2 ≤ e.count := by omega
    simp only [Function.comp, this]
  simp only [BankContext.halve, List.filter_map, hp]

/-- Settles O16: the close as signalled is its definition, the halving by `halve_eq`. -/
theorem trackingCloseHalvesTables : Obligations.TrackingCloseHalvesTables := by
  unfold Obligations.TrackingCloseHalvesTables
  intro halved
  have hhalve : BankContext.halve = halved := funext halve_eq
  refine ⟨fun s r => ?_, halve_eq⟩
  rw [← hhalve]
  rfl

/-! #### What the operations keep of a legal table (R1 to R3, R16) -/

section Legal

variable {c : BankContext} {row : Nat}

/-- An entry created for a new row. -/
theorem create_legal (h : c.Legal) (hroom : c.entries.length < 12) {fresh : Entry} (hnew : c.names fresh.row = false)
    (hcount : fresh.count ≤ 4095) : (c.create fresh).Legal where
  size := by simpa [BankContext.create] using hroom
  rows := by
    simp only [BankContext.create, List.map_append, List.map_cons, List.map_nil]
    refine List.nodup_append.mpr ⟨h.rows, List.nodup_singleton _, fun x hx y hy => ?_⟩
    obtain ⟨e, he, rfl⟩ := List.mem_map.mp hx
    rw [List.mem_singleton.mp hy]
    exact names_eq_false_iff.mp hnew e he
  counts := fun e he => by
    rcases List.mem_append.mp he with he | he
    · exact h.counts e he
    · rw [List.mem_singleton.mp he]
      exact hcount
  floor := h.floor
  untracked := h.untracked

/-- An entry created unmarked marks no row. -/
theorem create_marksRow {fresh : Entry} (hm : fresh.mark = false) (q : Nat) :
    (c.create fresh).MarksRow q ↔ c.MarksRow q := by
  simp [BankContext.MarksRow, BankContext.create, or_and_right, exists_or, hm]

/-- An entry evicted for a new row. -/
theorem replace_legal (h : c.Legal) {e fresh : Entry} (he : e ∈ c.entries) (hnew : c.names fresh.row = false)
    (hcount : fresh.count ≤ 4095) : (c.replace e fresh).Legal where
  size := by
    have hpos := List.length_pos_of_mem he
    have hsize := h.size
    simp only [BankContext.replace, List.length_append, List.length_erase_of_mem he, List.length_singleton]
    omega
  rows := by
    simp only [BankContext.replace, List.map_append, List.map_cons, List.map_nil]
    refine List.nodup_append.mpr ⟨h.rows.sublist (List.erase_sublist.map _), List.nodup_singleton _, fun x hx y hy => ?_⟩
    obtain ⟨z, hz, rfl⟩ := List.mem_map.mp hx
    rw [List.mem_singleton.mp hy]
    exact names_eq_false_iff.mp hnew z (List.mem_of_mem_erase hz)
  counts := fun z hz => by
    rcases List.mem_append.mp hz with hz | hz
    · exact h.counts z (List.mem_of_mem_erase hz)
    · rw [List.mem_singleton.mp hz]
      exact hcount
  floor := h.counts e he
  untracked := h.untracked

/-- The eviction of an unmarked entry for an unmarked one marks the same rows. -/
theorem replace_marksRow {e fresh : Entry} (he : e.mark = false) (hm : fresh.mark = false) (q : Nat) :
    (c.replace e fresh).MarksRow q ↔ c.MarksRow q := by
  have hkeep (z : Entry) (hz : z.mark = true) : z ∈ c.entries.erase e ↔ z ∈ c.entries :=
    List.mem_erase_of_ne fun h => by rw [h, he] at hz; cases hz
  constructor
  · rintro ⟨z, hz, hrow, hmark⟩
    rcases List.mem_append.mp hz with hz | hz
    · exact ⟨z, (hkeep z hmark).mp hz, hrow, hmark⟩
    · rw [List.mem_singleton.mp hz, hm] at hmark
      cases hmark
  · rintro ⟨z, hz, hrow, hmark⟩
    exact ⟨z, List.mem_append_left _ ((hkeep z hmark).mpr hz), hrow, hmark⟩

/-- Entries changed in their places, by a change that keeps rows and stays in range. -/
theorem change_legal (h : c.Legal) {f : Entry → Entry} (hrow : ∀ e, (f e).row = e.row)
    (hcount : ∀ e, e.count ≤ 4095 → (f e).count ≤ 4095) : (c.change row f).Legal where
  size := by simpa [BankContext.change] using h.size
  rows := by
    rw [change_rows c row f hrow]
    exact h.rows
  counts := fun e he => by
    obtain ⟨x, hx, rfl⟩ := List.mem_map.mp he
    split
    · exact hcount x (h.counts x hx)
    · exact h.counts x hx
  floor := h.floor
  untracked := h.untracked

/-- The rows marked after a change of one row's entries. -/
theorem change_marksRow (f : Entry → Entry) (hrow : ∀ e, (f e).row = e.row) (q : Nat) :
    (c.change row f).MarksRow q ↔
      ∃ e ∈ c.entries, e.row = q ∧ (if e.row = row then (f e).mark else e.mark) = true := by
  constructor
  · rintro ⟨e, he, hq, hm⟩
    obtain ⟨x, hx, rfl⟩ := List.mem_map.mp he
    refine ⟨x, hx, ?_⟩
    split at hq
    · rename_i h
      rw [if_pos h] at hm ⊢
      exact ⟨(hrow x).symm.trans hq, hm⟩
    · rename_i h
      rw [if_neg h] at hm ⊢
      exact ⟨hq, hm⟩
  · rintro ⟨x, hx, hq, hm⟩
    refine ⟨_, List.mem_map.mpr ⟨x, hx, rfl⟩, ?_⟩
    split at hm
    · rename_i h
      rw [if_pos h]
      exact ⟨(hrow x).trans hq, hm⟩
    · rename_i h
      rw [if_neg h]
      exact ⟨hq, hm⟩

/-- Every entry of a table after an activation names the activated row or one that was named. -/
theorem row_of_mem_activate {ceiling : Nat} {e : Entry} (h : e ∈ (c.activate ceiling row).entries) :
    e.row = row ∨ ∃ x ∈ c.entries, x.row = e.row := by
  cases hn : c.names row with
  | true =>
    rw [activate_of_names hn] at h
    obtain ⟨x, hx, rfl⟩ := List.mem_map.mp h
    refine .inr ⟨x, hx, ?_⟩
    split <;> rfl
  | false =>
    by_cases hroom : c.entries.length < 12
    · rw [activate_of_room hn hroom] at h
      rcases List.mem_append.mp h with h | h
      · exact .inr ⟨e, h, rfl⟩
      · exact .inl (by rw [List.mem_singleton.mp h])
    · cases he : c.evictee ceiling with
      | none =>
        rw [activate_of_no_evictee hn hroom he] at h
        exact .inr ⟨e, h, rfl⟩
      | some x =>
        rw [activate_of_evictee hn hroom he] at h
        rcases List.mem_append.mp h with h | h
        · exact .inr ⟨e, List.mem_of_mem_erase h, rfl⟩
        · exact .inl (by rw [List.mem_singleton.mp h])

/-- An activation keeps a table legal. -/
theorem activate_legal (h : c.Legal) {ceiling : Nat} (hc : ceiling ≤ 4095) : (c.activate ceiling row).Legal := by
  cases hn : c.names row with
  | true =>
    rw [activate_of_names hn]
    exact change_legal h (fun _ => rfl) fun e _ => Nat.min_le_left _ _
  | false =>
    by_cases hroom : c.entries.length < 12
    · rw [activate_of_room hn hroom]
      exact create_legal h hroom hn (by simp)
    · cases he : c.evictee ceiling with
      | none =>
        rw [activate_of_no_evictee hn hroom he]
        exact ⟨h.size, h.rows, h.counts, h.floor, Nat.min_le_left _ _⟩
      | some x =>
        obtain ⟨hx, -, hlt⟩ := evictee_spec he
        rw [activate_of_evictee hn hroom he]
        exact replace_legal h hx hn (Nat.lt_of_lt_of_le hlt hc)

/-- An activation marks no row and unmarks none. -/
theorem activate_marksRow {ceiling : Nat} (q : Nat) : (c.activate ceiling row).MarksRow q ↔ c.MarksRow q := by
  cases hn : c.names row with
  | true =>
    rw [activate_of_names hn, change_marksRow Entry.raise fun _ => rfl]
    simp only [Entry.raise, ite_self]
    rfl
  | false =>
    by_cases hroom : c.entries.length < 12
    · rw [activate_of_room hn hroom]
      exact create_marksRow rfl q
    · cases he : c.evictee ceiling with
      | none =>
        rw [activate_of_no_evictee hn hroom he]
        rfl
      | some x =>
        rw [activate_of_evictee hn hroom he]
        exact replace_marksRow (evictee_spec he).2.1 rfl q

/-- What a table is after an injection that is not refused: legal, naming the injected row besides those it named, and marking
the same rows (R18). -/
theorem inject_spec (h : c.Legal) {ceiling : Nat} {c' : BankContext} (hi : c.inject ceiling row = some c') :
    c'.Legal ∧ (∀ e ∈ c'.entries, e.row = row ∨ ∃ x ∈ c.entries, x.row = e.row) ∧ c'.names row = true ∧
      ∀ q, c'.MarksRow q ↔ c.MarksRow q := by
  cases hn : c.names row with
  | true =>
    rw [inject_of_names hn] at hi
    cases hi
    exact ⟨h, fun e he => .inr ⟨e, he, rfl⟩, hn, fun _ => Iff.rfl⟩
  | false =>
    by_cases hroom : c.entries.length < 12
    · rw [inject_of_room hn hroom] at hi
      cases hi
      refine ⟨create_legal h hroom hn (by simp), fun e he => ?_, by simp [BankContext.create, BankContext.names],
        create_marksRow rfl⟩
      rcases List.mem_append.mp he with he | he
      · exact .inr ⟨e, he, rfl⟩
      · exact .inl (by rw [List.mem_singleton.mp he])
    · cases he : c.evictee ceiling with
      | none =>
        rw [inject_of_no_evictee hn hroom he] at hi
        cases hi
      | some x =>
        obtain ⟨hx, hm, -⟩ := evictee_spec he
        rw [inject_of_evictee hn hroom he] at hi
        cases hi
        refine ⟨replace_legal h hx hn (h.counts x hx), fun e he => ?_, by simp [BankContext.replace, BankContext.names],
          replace_marksRow hm rfl⟩
        rcases List.mem_append.mp he with he | he
        · exact .inr ⟨e, List.mem_of_mem_erase he, rfl⟩
        · exact .inl (by rw [List.mem_singleton.mp he])

/-- Every entry of a halved table names a row that was named. -/
theorem row_of_mem_halve {e : Entry} (h : e ∈ c.halve.entries) : ∃ x ∈ c.entries, x.row = e.row := by
  rw [halve_eq] at h
  obtain ⟨x, hx, rfl⟩ := List.mem_map.mp h
  exact ⟨x, (List.mem_filter.mp hx).1, rfl⟩

/-- A halving keeps a table legal. -/
theorem halve_legal (h : c.Legal) : c.halve.Legal := by
  rw [halve_eq]
  refine ⟨?_, ?_, fun e he => ?_, (Nat.div_le_self _ _).trans h.floor, h.untracked⟩
  · rw [List.length_map]
    exact (List.length_filter_le _ _).trans h.size
  · rw [List.map_map]
    exact h.rows.sublist (List.filter_sublist.map _)
  · obtain ⟨x, hx, rfl⟩ := List.mem_map.mp he
    exact (Nat.div_le_self _ _).trans (h.counts x (List.mem_filter.mp hx).1)

/-- A halving keeps the marked entries, and so the marked rows. -/
theorem halve_marksRow (q : Nat) : c.halve.MarksRow q ↔ c.MarksRow q := by
  rw [halve_eq]
  constructor
  · rintro ⟨e, he, hq, hm⟩
    obtain ⟨x, hx, rfl⟩ := List.mem_map.mp he
    exact ⟨x, (List.mem_filter.mp hx).1, hq, hm⟩
  · rintro ⟨x, hx, hq, hm⟩
    exact ⟨_, List.mem_map.mpr ⟨x, List.mem_filter.mpr ⟨hx, by rw [hm, Bool.true_or]⟩, rfl⟩, hq, hm⟩

end Legal

end Sys2Proof.Machine
end

section
/-! ### The mitigation queue: new jobs, promotions, re-evaluations and takes

The re-evaluation of the staged slot and the take, each by the first job it meets (R65 to R67, R69, R81, R82). The fuel of both
loops is the length of the list, which every EMPTY retirement shortens by one. -/

namespace Sys2Proof.Machine

open Sys2Proof

/-! #### New jobs and promotions (R56, R62, R63) -/

/-- An accepted job with the list that its place makes (R58 b). -/
theorem acceptJob_of_placeJob {s : State} {r : Rank} {b : Bank} {row : Nat} {cls : JobClass} {origin : Origin} {count : Nat}
    {l : List Job} (h : placeJob (s.newJob r b row cls origin count) s.queue.list = l) :
    s.acceptJob r b row cls origin count =
      (({ s with queue := { s.queue with
        list := l
        nextNumber := s.queue.nextNumber + 1
        stats := { s.queue.stats with enqueued := s.queue.stats.enqueued + 1 } } }).markEntry r b row).restage := by
  rw [← h]
  rfl

/-- Settles O21, by the place of the new job's class in a list with the URGENT jobs first. -/
theorem newJobTakesItsPlace : Obligations.NewJobTakesItsPlace := by
  unfold Obligations.NewJobTakesItsPlace
  intro s r b row cls origin count urgents normals hl hu hn j q
  cases cls with
  | normal =>
    refine acceptJob_of_placeJob ?_
    rw [hl]
    rfl
  | urgent =>
    refine acceptJob_of_placeJob ?_
    rw [hl]
    exact insertUrgent_append j hu hn

/-- A promotion request acts on the first listed NORMAL job of the row (R63). -/
theorem promote_of_split {s : State} {r : Rank} {b : Bank} {row : Nat} {before behind : List Job} {j : Job}
    (h : splitFirst (fun j => j.names r b row && !j.urgent) s.queue.list = some (before, j, behind)) :
    s.promote r b row = (s.setList (insertUrgent { j with cls := .urgent } (before ++ behind))).restage := by
  simp only [State.promote, h]

/-- Settles O22: the job found is the first NORMAL one of the row, and its new place is behind the URGENT ones. -/
theorem promotionMovesBehindUrgent : Obligations.PromotionMovesBehindUrgent := by
  unfold Obligations.PromotionMovesBehindUrgent
  intro s r b row urgents before behind j hl hu hn hj hbefore
  have hnormal : j.cls = .normal := hn j (by simp)
  have hsplit : splitFirst (fun j => j.names r b row && !j.urgent) s.queue.list = some (urgents ++ before, j, behind) := by
    rw [hl]
    refine splitFirst_append j behind (fun x hx => ?_) (by simp [hj, Job.urgent, hnormal])
    rcases List.mem_append.mp hx with hx | hx
    · simp [Job.urgent, hu x hx]
    · simp [hbefore x hx]
  rw [promote_of_split hsplit, List.append_assoc,
    insertUrgent_append _ hu fun x hx => hn x (by rcases List.mem_append.mp hx with h | h <;> simp [h])]
  rfl

/-! #### The re-evaluation of the staged slot (R65 to R67) -/

/-- A listed job is eligible when its rank serves (R65). -/
theorem eligible_eq_true_iff {s : State} {j : Job} : s.eligible j = true ↔ s.RankServes j := by
  unfold State.eligible State.RankServes
  cases (s.rank j.rank).state <;> simp [RankState.serves]

/-- A listed job is not eligible when its rank does not serve (R65). -/
theorem eligible_eq_false_iff {s : State} {j : Job} : s.eligible j = false ↔ ¬ s.RankServes j := by
  rw [← eligible_eq_true_iff, Bool.not_eq_true]

section Restage

variable {s : State} {before behind : List Job} {j : Job}

/-- With no eligible job every listed job is WAITING (R66). -/
theorem restage_of_none (h : splitFirst s.eligible s.queue.list = none) :
    s.restage = s.setList (s.queue.list.map Job.wait) := by
  unfold State.restage
  cases s.queue.list.length with
  | zero => rfl
  | succ n => simp only [State.restageLoop, h]

/-- A list that splits is not empty. -/
theorem length_of_split {α : Type} {p : α → Bool} {l before behind : List α} {x : α}
    (h : splitFirst p l = some (before, x, behind)) : l.length = (before ++ behind).length + 1 := by
  rw [(splitFirst_spec h).1]
  simp only [List.length_append, List.length_cons]
  omega

/-- The first eligible job with its victim list is STAGED, the others are WAITING (R66). -/
theorem restage_of_victims {l : List Nat} (h : splitFirst s.eligible s.queue.list = some (before, j, behind))
    (hv : j.victims = some l) : s.restage = s.setList (stageAt before j behind) := by
  unfold State.restage
  rw [length_of_split h]
  simp only [State.restageLoop, h, hv]

/-- The first eligible job takes the victim list computed for it (R67 a). -/
theorem restage_of_victimsFor {v : Nat} {vs : List Nat} (h : splitFirst s.eligible s.queue.list = some (before, j, behind))
    (hv : j.victims = none) (hf : s.victimsFor j = v :: vs) :
    s.restage = s.setList (stageAt before { j with victims := some (v :: vs) } behind) := by
  unfold State.restage
  rw [length_of_split h]
  simp only [State.restageLoop, h, hv, hf]

/-- The first eligible job retires EMPTY when its victim list is computed empty (R67 b). -/
theorem restage_of_empty (h : splitFirst s.eligible s.queue.list = some (before, j, behind)) (hv : j.victims = none)
    (hf : s.victimsFor j = []) : s.restage = (s.retireEmpty before j behind).restage := by
  unfold State.restage
  rw [length_of_split h, State.retireEmpty_list]
  simp only [State.restageLoop, h, hv, hf]

end Restage

/-- What holds of every state that a re-evaluation starts from, and of what each EMPTY retirement leaves, holds where it ends:
with no eligible job, or with the first eligible one STAGED. -/
theorem restage_induction {P : State → Prop} {Q : State → Prop}
    (hnone : ∀ s, P s → splitFirst s.eligible s.queue.list = none → Q (s.setList (s.queue.list.map Job.wait)))
    (hstage : ∀ s before j behind l, P s → splitFirst s.eligible s.queue.list = some (before, j, behind) →
      j.victims = some l ∨ (j.victims = none ∧ s.victimsFor j = l ∧ l ≠ []) →
      Q (s.setList (stageAt before { j with victims := some l } behind)))
    (hretire : ∀ s before j behind, P s → splitFirst s.eligible s.queue.list = some (before, j, behind) →
      j.victims = none → s.victimsFor j = [] → P (s.retireEmpty before j behind))
    (s : State) (h : P s) : Q s.restage := by
  induction hn : s.queue.list.length generalizing s with
  | zero =>
    have hnil := List.eq_nil_of_length_eq_zero hn
    have hsplit : splitFirst s.eligible s.queue.list = none := by rw [hnil]; rfl
    rw [restage_of_none hsplit]
    exact hnone s h hsplit
  | succ n ih =>
    rcases hsplit : splitFirst s.eligible s.queue.list with _ | ⟨before, j, behind⟩
    · rw [restage_of_none hsplit]
      exact hnone s h hsplit
    · cases hv : j.victims with
      | some l =>
        have hj : { j with victims := some l } = j := by rw [← hv]
        rw [restage_of_victims hsplit hv, ← hj]
        exact hstage s before j behind l h hsplit (.inl hv)
      | none =>
        cases hf : s.victimsFor j with
        | cons v vs =>
          rw [restage_of_victimsFor hsplit hv hf]
          exact hstage s before j behind (v :: vs) h hsplit (.inr ⟨hv, hf, List.cons_ne_nil v vs⟩)
        | nil =>
          rw [restage_of_empty hsplit hv hf]
          refine ih _ (hretire s before j behind h hsplit hv hf) ?_
          have := length_of_split hsplit
          rw [State.retireEmpty_list]
          omega

/-- Settles O23, by the first eligible job of the list and its victim list. -/
theorem reevaluationStagesOrRetires : Obligations.ReevaluationStagesOrRetires := by
  unfold Obligations.ReevaluationStagesOrRetires
  intro s
  refine ⟨fun hnone => ?_, fun before j behind hl hbefore hj => ?_⟩
  · exact restage_of_none (splitFirst_eq_none.mpr fun x hx => eligible_eq_false_iff.mpr (hnone x hx))
  · have hsplit : splitFirst s.eligible s.queue.list = some (before, j, behind) := by
      rw [hl]
      exact splitFirst_append j behind (fun x hx => eligible_eq_false_iff.mpr (hbefore x hx)) (eligible_eq_true_iff.mpr hj)
    refine ⟨fun l hv => ?_, fun hv hf => ⟨restage_of_empty hsplit hv hf, rfl⟩⟩
    rcases hv with hv | ⟨hv, hf, hne⟩
    · have hj : { j with state := .staged, victims := some l } = { j with state := .staged } := by rw [← hv]
      rw [restage_of_victims hsplit hv, hj]
      rfl
    · obtain ⟨v, vs, rfl⟩ := List.exists_cons_of_ne_nil hne
      rw [restage_of_victimsFor hsplit hv hf]
      rfl

/-- After any re-evaluation the staged slot is as R66 says. -/
theorem restage_staged (s : State) : s.restage.StagedLegal := by
  refine restage_induction (P := fun _ => True) (Q := State.StagedLegal) (fun s _ h => ?_)
    (fun s before j behind l _ h _ => ?_) (fun _ _ _ _ _ _ _ _ => trivial) s trivial
  · have hnone := splitFirst_eq_none.mp h
    have hsplit : splitFirst (s.setList (s.queue.list.map Job.wait)).eligible (s.queue.list.map Job.wait) = none := by
      refine splitFirst_eq_none.mpr fun x hx => ?_
      obtain ⟨y, hy, rfl⟩ := List.mem_map.mp hx
      exact hnone y hy
    unfold State.StagedLegal
    rw [State.setList_list, hsplit]
    intro x hx
    obtain ⟨y, hy, rfl⟩ := List.mem_map.mp hx
    rfl
  · obtain ⟨-, hj, hbefore⟩ := splitFirst_spec h
    have hsplit : splitFirst (s.setList (stageAt before { j with victims := some l } behind)).eligible
        (stageAt before { j with victims := some l } behind) =
          some (before.map Job.wait, { j with state := .staged, victims := some l }, behind.map Job.wait) := by
      refine splitFirst_append _ _ (fun x hx => ?_) hj
      obtain ⟨y, hy, rfl⟩ := List.mem_map.mp hx
      exact hbefore y hy
    unfold State.StagedLegal
    rw [State.setList_list, hsplit]
    refine ⟨rfl, rfl, fun x hx => ?_⟩
    rw [← List.map_append] at hx
    obtain ⟨y, hy, rfl⟩ := List.mem_map.mp hx
    rfl

/-- The staged slot of a state that keeps R66, read from the first eligible job. -/
theorem State.StagedLegal.of_split {s : State} (h : s.StagedLegal) {before behind : List Job} {j : Job}
    (hs : splitFirst s.eligible s.queue.list = some (before, j, behind)) :
    j.state = .staged ∧ j.victims.isSome = true ∧ ∀ x ∈ before ++ behind, x.state = .waiting := by
  unfold State.StagedLegal at h
  rwa [hs] at h

/-- The staged slot of a state that keeps R66 is empty without an eligible job. -/
theorem State.StagedLegal.of_none {s : State} (h : s.StagedLegal) (hs : splitFirst s.eligible s.queue.list = none) :
    ∀ x ∈ s.queue.list, x.state = .waiting := by
  unfold State.StagedLegal at h
  rwa [hs] at h

/-- Settles O24: `restage_staged` read from the first job of which the rank serves. -/
theorem stagedSlotHoldsFirstEligible : Obligations.StagedSlotHoldsFirstEligible := by
  unfold Obligations.StagedSlotHoldsFirstEligible
  intro s
  have hstaged := restage_staged s
  refine ⟨fun hnone => hstaged.of_none (splitFirst_eq_none.mpr fun x hx => eligible_eq_false_iff.mpr (hnone x hx)),
    fun before j behind hl hbefore hj => hstaged.of_split ?_⟩
  rw [hl]
  exact splitFirst_append j behind (fun x hx => eligible_eq_false_iff.mpr (hbefore x hx)) (eligible_eq_true_iff.mpr hj)

/-! #### Takes (R69, R81, R82) -/

section Take

variable {s : State} {r : Rank} {urgentOnly : Bool} {before behind : List Job} {j : Job}

/-- The first job of a rank in list order. -/
theorem State.FirstOfRank.split (h : s.FirstOfRank r before j behind) :
    splitFirst (fun j => j.rank == r) s.queue.list = some (before, j, behind) := by
  rw [h.list]
  exact splitFirst_append j behind (fun x hx => beq_eq_false_iff_ne.mpr (h.earlier x hx)) (beq_iff_eq.mpr h.rank)

/-- A split by rank finds the first job of the rank. -/
theorem firstOfRank_of_split (h : splitFirst (fun j => j.rank == r) s.queue.list = some (before, j, behind)) :
    s.FirstOfRank r before j behind := by
  obtain ⟨hl, hj, hb⟩ := splitFirst_spec h
  exact ⟨hl, fun x hx => beq_eq_false_iff_ne.mp (hb x hx), eq_of_beq hj⟩

/-- A take from a list without a job of the rank finds none. -/
theorem take_of_none (h : ∀ x ∈ s.queue.list, x.rank ≠ r) : s.take r urgentOnly = (s, none) := by
  have hsplit : splitFirst (fun j => j.rank == r) s.queue.list = none :=
    splitFirst_eq_none.mpr fun x hx => beq_eq_false_iff_ne.mpr (h x hx)
  unfold State.take
  cases s.queue.list.length with
  | zero => rfl
  | succ n => simp only [State.takeLoop, hsplit]

/-- A conversion stops at a NORMAL job (R82 b). -/
theorem take_of_normal (h : s.FirstOfRank r before j behind) (hj : j.cls = .normal) : s.take r true = (s, none) := by
  unfold State.take
  rw [length_of_split h.split]
  simp [State.takeLoop, h.split, Job.urgent, hj]

/-- A job may be taken when the take is no conversion or the job is URGENT. -/
theorem takeable_of (h : urgentOnly = false ∨ j.cls = .urgent) : (urgentOnly && !j.urgent) = false := by
  rcases h with rfl | h
  · rfl
  · simp [Job.urgent, h]

/-- A take of a job with its victim list, present or computed (R69). -/
theorem take_of_victims {l : List Nat} (h : s.FirstOfRank r before j behind) (hu : urgentOnly = false ∨ j.cls = .urgent)
    (hv : j.victims = some l ∨ (j.victims = none ∧ s.victimsFor j = l ∧ l ≠ [])) :
    s.take r urgentOnly = (s.setList (before ++ behind), some (j.taken l)) := by
  unfold State.take
  rw [length_of_split h.split]
  rcases hv with hv | ⟨hv, hf, hne⟩
  · simp only [State.takeLoop, h.split, takeable_of hu, hv, Bool.false_eq_true, if_false]
    rw [← hv, Job.taken, ← hv]
  · obtain ⟨v, vs, rfl⟩ := List.exists_cons_of_ne_nil hne
    simp only [State.takeLoop, h.split, takeable_of hu, hv, hf, Bool.false_eq_true, if_false]
    rfl

/-- A take passes a job that retires EMPTY and begins again (R69). -/
theorem take_of_empty (h : s.FirstOfRank r before j behind) (hu : urgentOnly = false ∨ j.cls = .urgent)
    (hv : j.victims = none) (hf : s.victimsFor j = []) :
    s.take r urgentOnly = (s.retireEmpty before j behind).take r urgentOnly := by
  unfold State.take
  rw [length_of_split h.split, State.retireEmpty_list]
  simp only [State.takeLoop, h.split, takeable_of hu, hv, hf, Bool.false_eq_true, if_false]

end Take

/-- Settles O25, by the first job of the rank, its class and its victim list. -/
theorem takeChoosesFirstJobOfRank : Obligations.TakeChoosesFirstJobOfRank := by
  unfold Obligations.TakeChoosesFirstJobOfRank
  intro s r urgentOnly
  refine ⟨take_of_none, fun before j behind h => ⟨fun hu hn => ?_, fun hu => ⟨fun l hv => take_of_victims h hu hv,
    fun hv hf => take_of_empty h hu hv hf⟩⟩⟩
  rw [hu]
  exact take_of_normal h hn

/-- What holds of the state that a take starts from, and of what each EMPTY retirement leaves, holds where it ends: with no job,
or with the first job of the rank. -/
theorem take_induction {P : State → Prop} {Q : State → Option Job → Prop} {r : Rank} {urgentOnly : Bool}
    (hnone : ∀ s, P s → Q s none)
    (htake : ∀ s before j behind l, P s → s.FirstOfRank r before j behind →
      j.victims = some l ∨ (j.victims = none ∧ s.victimsFor j = l ∧ l ≠ []) →
      Q (s.setList (before ++ behind)) (some (j.taken l)))
    (hretire : ∀ s before j behind, P s → s.FirstOfRank r before j behind → j.victims = none → s.victimsFor j = [] →
      P (s.retireEmpty before j behind))
    (s : State) (h : P s) : Q (s.take r urgentOnly).1 (s.take r urgentOnly).2 := by
  induction hn : s.queue.list.length generalizing s with
  | zero =>
    have hnil := List.eq_nil_of_length_eq_zero hn
    rw [take_of_none fun x hx => by rw [hnil] at hx; cases hx]
    exact hnone s h
  | succ n ih =>
    rcases hsplit : splitFirst (fun j => j.rank == r) s.queue.list with _ | ⟨before, j, behind⟩
    · rw [take_of_none fun x hx => beq_eq_false_iff_ne.mp (splitFirst_eq_none.mp hsplit x hx)]
      exact hnone s h
    · have hfirst := firstOfRank_of_split hsplit
      by_cases hu : urgentOnly = false ∨ j.cls = .urgent
      · cases hv : j.victims with
        | some l =>
          rw [take_of_victims hfirst hu (.inl hv)]
          exact htake s before j behind l h hfirst (.inl hv)
        | none =>
          cases hf : s.victimsFor j with
          | cons v vs =>
            have hv' : j.victims = some (v :: vs) ∨ (j.victims = none ∧ s.victimsFor j = v :: vs ∧ v :: vs ≠ []) :=
              .inr ⟨hv, hf, List.cons_ne_nil v vs⟩
            rw [take_of_victims hfirst hu hv']
            exact htake s before j behind (v :: vs) h hfirst hv'
          | nil =>
            rw [take_of_empty hfirst hu hv hf]
            refine ih _ (hretire s before j behind h hfirst hv hf) ?_
            have := length_of_split hsplit
            rw [State.retireEmpty_list]
            omega
      · obtain ⟨hyes, hnormal⟩ : urgentOnly = true ∧ j.cls = .normal := by
          cases urgentOnly <;> cases hc : j.cls <;> simp_all
        rw [hyes, take_of_normal hfirst hnormal]
        exact hnone s h

end Sys2Proof.Machine
end

section
/-! ### The held jobs: what the rules say of them, and what each operation of the queue keeps

`State.Jobs s held` gathers what the rules say of the tables, the flag and the statistics of `s` against a list of held jobs.
The list is named by itself, since a take and the expiry of a window hold a job for a moment outside the list and the active
slot. `Listed` says what the ordered list keeps. -/

namespace Sys2Proof.Machine

open Sys2Proof

/-! #### One job -/

/-- The rank, the bank and the hot row of a job, which no two held jobs share (R57). -/
def Job.key (j : Job) : Rank × Bank × Nat := (j.rank, j.bank, j.row)

theorem Job.names_eq_true_iff {j : Job} {r : Rank} {b : Bank} {row : Nat} :
    j.names r b row = true ↔ j.key = (r, b, row) := by
  simp [Job.names, Job.key, and_assoc]

/-- What the rules say of one held job against the parameters of its rank (R52, R55). -/
structure Job.Fits (j : Job) (p : RankParams) : Prop where
  legal : j.Legal
  row : j.row < p.rows
  victims : ∀ v ∈ j.victims.getD [], v < p.rows
  radius : (j.victims.getD []).length ≤ 2 * p.radius

/-- A job without a victim list has served none (R55). -/
theorem Job.Legal.served_eq_zero {j : Job} (h : j.Legal) (hv : j.victims = none) : j.served = 0 := by
  unfold Job.Legal at h
  rwa [hv] at h

/-- A job with a victim list has one of 1 to 4 rows with some still to serve (R55, R67). -/
theorem Job.Legal.of_victims {j : Job} {l : List Nat} (h : j.Legal) (hv : j.victims = some l) :
    l.length ≤ 4 ∧ j.served < l.length ∧ l.Nodup ∧ j.row ∉ l := by
  unfold Job.Legal at h
  rwa [hv] at h

/-- Neither the number, the class, the state nor the partial windows of a job are against the rules by themselves. -/
theorem Job.Fits.congr {j k : Job} {p : RankParams} (h : j.Fits p) (hrow : k.row = j.row) (hv : k.victims = j.victims)
    (hs : k.served = j.served) : k.Fits p := by
  obtain ⟨hl, hr, hvs, hrad⟩ := h
  refine ⟨?_, by rwa [hrow], by rwa [hv], by rwa [hv]⟩
  unfold Job.Legal at hl ⊢
  rwa [hv, hs, hrow]

/-- A victim list that is computed is one that the rules allow for its job (R52, R67 a). -/
theorem Job.Fits.computed {s : State} {j : Job} {l : List Nat} (hp : s.ParametersLegal) (h : j.Fits (s.params j.rank))
    (hv : j.victims = none) (hf : s.victimsFor j = l) (hne : l ≠ []) :
    ({ j with victims := some l } : Job).Fits (s.params j.rank) := by
  obtain ⟨hnot, hlen, hnodup, hrows⟩ :=
    victimListsAreSound (s.rank j.rank) j.bank j.row (hp.params j.rank) (hp.repairs j.rank) h.row
  have hf : victimsOf (s.rank j.rank).params (s.rank j.rank).repairs j.bank j.row = l := hf
  rw [hf] at hnot hlen hnodup hrows
  have hradius := (hp.params j.rank).radius
  have hlen : l.length ≤ 2 * (s.params j.rank).radius := hlen
  refine ⟨?_, h.row, hrows, hlen⟩
  show l.length ≤ 4 ∧ j.served < l.length ∧ l.Nodup ∧ j.row ∉ l
  rw [h.legal.served_eq_zero hv]
  exact ⟨by omega, List.length_pos_of_ne_nil hne, hnodup, hnot⟩

/-- A job with the victim list that a re-evaluation or a take gives it (R67, R69). -/
theorem Job.Fits.withVictims {s : State} {j : Job} {l : List Nat} (hp : s.ParametersLegal) (h : j.Fits (s.params j.rank))
    (hv : j.victims = some l ∨ (j.victims = none ∧ s.victimsFor j = l ∧ l ≠ [])) :
    ({ j with victims := some l } : Job).Fits (s.params j.rank) := by
  rcases hv with hv | ⟨hv, hf, hne⟩
  · exact h.congr rfl hv.symm rfl
  · exact h.computed hp hv hf hne

/-! #### The ordered list (R61, R62) -/

/-- A list with the URGENT jobs first and no job RUNNING. -/
structure Listed (l : List Job) : Prop where
  order : UrgentFirst l
  states : ∀ j ∈ l, j.state ≠ .running

theorem Listed.sublist {l m : List Job} (h : Listed l) (hs : m.Sublist l) : Listed m :=
  ⟨h.order.sublist hs, fun j hj => h.states j (hs.subset hj)⟩

/-- The jobs of a listed split without the one it finds. -/
theorem Listed.without {before behind : List Job} {j : Job} (h : Listed (before ++ j :: behind)) : Listed (before ++ behind) :=
  h.sublist (List.Sublist.append_left (List.sublist_cons_self j behind) before)

/-- Jobs changed in their places, with their classes kept and none made RUNNING. -/
theorem Listed.of_classes {l m : List Job} (h : Listed l) (hc : m.map Job.cls = l.map Job.cls)
    (hs : ∀ j ∈ m, j.state ≠ .running) : Listed m := by
  have hmap (l : List Job) :
      UrgentFirst l ↔ (l.map Job.cls).Pairwise fun a b => a = .normal → b = .normal :=
    (List.pairwise_map (R := fun a b => a = JobClass.normal → b = .normal)).symm
  exact ⟨(hmap m).mpr (hc ▸ (hmap l).mp h.order), hs⟩

/-- A list is URGENT first when it is URGENT jobs and then NORMAL ones. -/
theorem urgentFirst_append {urgents normals : List Job} (hu : ∀ x ∈ urgents, x.cls = .urgent)
    (hn : ∀ x ∈ normals, x.cls = .normal) : UrgentFirst (urgents ++ normals) := by
  refine List.pairwise_append.mpr ⟨?_, ?_, fun a ha b hb h => hn b hb⟩
  · exact List.pairwise_of_forall_mem_list fun a ha b _ h => by rw [hu a ha] at h; cases h
  · exact List.pairwise_of_forall_mem_list fun a _ b hb _ => hn b hb

/-- The URGENT jobs and the NORMAL ones of a list with the URGENT first. -/
theorem exists_of_urgentFirst {l : List Job} (h : UrgentFirst l) :
    ∃ urgents normals, l = urgents ++ normals ∧ (∀ x ∈ urgents, x.cls = .urgent) ∧ ∀ x ∈ normals, x.cls = .normal := by
  induction l with
  | nil => exact ⟨[], [], rfl, by simp, by simp⟩
  | cons a l ih =>
    obtain ⟨ha, hl⟩ := List.pairwise_cons.mp h
    cases hc : a.cls with
    | normal =>
      refine ⟨[], a :: l, rfl, by simp, fun x hx => ?_⟩
      rcases List.mem_cons.mp hx with rfl | hx
      · exact hc
      · exact ha x hx hc
    | urgent =>
      obtain ⟨u, n, rfl, hu, hn⟩ := ih hl
      refine ⟨a :: u, n, rfl, fun x hx => ?_, hn⟩
      rcases List.mem_cons.mp hx with rfl | hx
      · exact hc
      · exact hu x hx

/-- A new or promoted URGENT job behind the last URGENT one (R62, R63). -/
theorem Listed.insertUrgent {l : List Job} (h : Listed l) {j : Job} (hj : j.cls = .urgent) (hs : j.state ≠ .running) :
    Listed (insertUrgent j l) := by
  obtain ⟨u, n, rfl, hu, hn⟩ := exists_of_urgentFirst h.order
  refine ⟨?_, fun x hx => ?_⟩
  · rw [insertUrgent_append j hu hn, List.append_cons]
    refine urgentFirst_append (fun x hx => ?_) hn
    rcases List.mem_append.mp hx with hx | hx
    · exact hu x hx
    · rw [List.mem_singleton.mp hx]
      exact hj
  · rcases List.mem_cons.mp ((insertUrgent_perm j _).mem_iff.mp hx) with rfl | hx
    · exact hs
    · exact h.states x hx

/-- A new job in its place (R62). -/
theorem Listed.placeJob {l : List Job} (h : Listed l) {j : Job} (hs : j.state ≠ .running) : Listed (placeJob j l) := by
  unfold Machine.placeJob
  cases hc : j.cls with
  | urgent => exact h.insertUrgent hc hs
  | normal =>
    refine ⟨List.pairwise_append.mpr ⟨h.order, List.pairwise_singleton _ _, fun a _ b hb _ => ?_⟩, fun x hx => ?_⟩
    · rw [List.mem_singleton.mp hb]
      exact hc
    · rcases List.mem_append.mp hx with hx | hx
      · exact h.states x hx
      · rw [List.mem_singleton.mp hx]
        exact hs

/-- A requeued job at the head (R64). -/
theorem Listed.cons_urgent {l : List Job} (h : Listed l) {j : Job} (hj : j.cls = .urgent) (hs : j.state ≠ .running) :
    Listed (j :: l) := by
  refine ⟨List.pairwise_cons.mpr ⟨fun a _ hn => ?_, h.order⟩, fun x hx => ?_⟩
  · rw [hj] at hn
    cases hn
  · rcases List.mem_cons.mp hx with rfl | hx
    · exact hs
    · exact h.states x hx

/-! #### The held jobs -/

/-- The balance of the statistics with a number of held jobs (R74). -/
def Stats.Balance (st : Stats) (held : Nat) : Prop :=
  st.enqueued = st.done + st.empty + st.covered + st.discarded + BitVec.ofNat 32 held

/-- What the rules say of the tables, the flag and the statistics with these jobs held (R1 to R3, R16, R52, R57, R59, R74). -/
structure State.Jobs (s : State) (held : List Job) : Prop where
  tables : s.TablesLegal
  entries : ∀ r b, ∀ e ∈ (s.context r b).entries, e.row < (s.params r).rows
  size : held.length ≤ 16
  apart : (held.map Job.key).Nodup
  fits : ∀ j ∈ held, j.Fits (s.params j.rank)
  marks : ∀ r b row, (r, b, row) ∈ held.map Job.key ↔ (s.context r b).MarksRow row
  untracked : ∀ r, (s.params r).track = false → ∀ b, (s.context r b).entries = []
  full : s.queue.full = true → held.length = 16
  balance : s.queue.stats.Balance held.length

/-- Two parameter sets that the tables and the jobs of a rank do not tell apart: the geometry counts with TRACK ON (R40). -/
structure RankParams.Agree (p p' : RankParams) : Prop where
  track : p'.track = p.track
  rows : p.track = true → p'.rows = p.rows
  radius : p.track = true → p'.radius = p.radius

theorem RankParams.Agree.of_eq {p p' : RankParams} (h : p' = p) : p.Agree p' := by
  rw [h]
  exact ⟨rfl, fun _ => rfl, fun _ => rfl⟩

/-- The entry reset in its place (R17). -/
theorem resetEntry_marksRow {c : BankContext} {row q : Nat} :
    (c.change row fun e => { e with count := 0, inherited := false, mark := false }).MarksRow q ↔ c.MarksRow q ∧ q ≠ row := by
  refine (change_marksRow (fun e => { e with count := 0, inherited := false, mark := false }) (fun _ => rfl) q).trans ?_
  constructor
  · rintro ⟨e, he, rfl, hm⟩
    split at hm
    · cases hm
    · exact ⟨⟨e, he, rfl, hm⟩, by assumption⟩
  · rintro ⟨⟨e, he, rfl, hm⟩, hne⟩
    exact ⟨e, he, rfl, by rwa [if_neg hne]⟩

/-- The entry marked in its place (R16). -/
theorem markEntry_marksRow {c : BankContext} {row q : Nat} (hn : c.names row = true) :
    (c.change row fun e => { e with mark := true }).MarksRow q ↔ c.MarksRow q ∨ q = row := by
  refine (change_marksRow (fun e => { e with mark := true }) (fun _ => rfl) q).trans ?_
  constructor
  · rintro ⟨e, he, rfl, hm⟩
    split at hm
    · exact .inr (by assumption)
    · exact .inl ⟨e, he, rfl, hm⟩
  · rintro (⟨e, he, rfl, hm⟩ | rfl)
    · exact ⟨e, he, rfl, by rw [hm]; exact ite_self _⟩
    · obtain ⟨e, he, hrow⟩ := List.any_eq_true.mp hn
      exact ⟨e, he, eq_of_beq hrow, by rw [if_pos (eq_of_beq hrow)]⟩

namespace State.Jobs

variable {s t : State} {held held' : List Job} {j : Job}

/-- A rank with TRACK OFF holds no job (R40). -/
theorem rank_ne (h : s.Jobs held) {r : Rank} (ht : (s.params r).track = false) : ∀ j ∈ held, j.rank ≠ r := by
  rintro j hj rfl
  obtain ⟨e, he, -⟩ := (h.marks j.rank j.bank j.row).mp (List.mem_map.mpr ⟨j, hj, rfl⟩)
  rw [h.untracked j.rank ht] at he
  cases he

/-- A rank with a held job has TRACK ON. -/
theorem track (h : s.Jobs held) (hj : j ∈ held) : (s.params j.rank).track = true := by
  cases ht : (s.params j.rank).track with
  | true => rfl
  | false => exact absurd rfl (h.rank_ne ht j hj)

/-- A rank with an entry has TRACK ON. -/
theorem track_of_entry (h : s.Jobs held) {r : Rank} {b : Bank} {e : Entry} (he : e ∈ (s.context r b).entries) :
    (s.params r).track = true := by
  cases ht : (s.params r).track with
  | true => rfl
  | false => rw [h.untracked r ht] at he; cases he

/-- The same tables, flag and balance, and parameters that agree. -/
theorem congr (h : s.Jobs held) (hc : ∀ r b, t.context r b = s.context r b) (hp : ∀ r, (s.params r).Agree (t.params r))
    (hf : t.queue.full = s.queue.full) (hb : ∀ n, s.queue.stats.Balance n → t.queue.stats.Balance n) : t.Jobs held where
  tables := fun r b => by rw [hc]; exact h.tables r b
  entries := fun r b e he => by
    rw [hc] at he
    rw [(hp r).rows (h.track_of_entry he)]
    exact h.entries r b e he
  size := h.size
  apart := h.apart
  fits := fun j hj => by
    obtain ⟨hl, hrow, hv, hr⟩ := h.fits j hj
    have ht := h.track hj
    rw [← (hp j.rank).rows ht] at hrow hv
    rw [← (hp j.rank).radius ht] at hr
    exact ⟨hl, hrow, hv, hr⟩
  marks := fun r b row => by rw [hc]; exact h.marks r b row
  untracked := fun r ht b => by
    rw [hc]
    exact h.untracked r ((hp r).track ▸ ht) b
  full := fun ht => h.full (hf ▸ ht)
  balance := hb _ h.balance

/-- Other jobs of the same ranks, banks and rows, in any order. -/
theorem update (h : s.Jobs held) (hk : (held'.map Job.key).Perm (held.map Job.key))
    (hf : ∀ j ∈ held', j.Fits (s.params j.rank)) : s.Jobs held' := by
  have hlen : held'.length = held.length := by simpa using hk.length_eq
  exact
    { tables := h.tables
      entries := h.entries
      size := hlen ▸ h.size
      apart := hk.nodup_iff.mpr h.apart
      fits := hf
      marks := fun r b row => hk.mem_iff.trans (h.marks r b row)
      untracked := h.untracked
      full := fun ht => hlen.trans (h.full ht)
      balance := hlen ▸ h.balance }

/-- The jobs in another order. -/
theorem perm (h : s.Jobs held) (hp : held'.Perm held) : s.Jobs held' :=
  h.update (hp.map _) fun j hj => h.fits j (hp.mem_iff.mp hj)

/-- One job changed, with its rank, bank and row kept. -/
theorem replace {k : Job} (h : s.Jobs (j :: held)) (hk : k.key = j.key) (hf : k.Fits (s.params k.rank)) :
    s.Jobs (k :: held) := by
  refine h.update (by simp [hk]) fun x hx => ?_
  rcases List.mem_cons.mp hx with rfl | hx
  · exact hf
  · exact h.fits x (List.mem_cons_of_mem _ hx)

/-- One table replaced by a legal one that marks the same rows. -/
theorem modContext (h : s.Jobs held) (r : Rank) (b : Bank) {c : BankContext} (hl : c.Legal)
    (hrows : ∀ e ∈ c.entries, e.row < (s.params r).rows)
    (hmarks : ∀ q, c.MarksRow q ↔ (s.context r b).MarksRow q)
    (ht : (s.params r).track = false → c.entries = []) : (s.modContext r b fun _ => c).Jobs held := by
  have hp := (modContext_moves s r b fun _ => c).params
  refine ⟨fun q a => ?_, fun q a => ?_, h.size, h.apart, fun j hj => ?_, fun q a row => ?_, fun q hq a => ?_, h.full, h.balance⟩
  · rw [State.context_modContext]
    split
    · exact hl
    · exact h.tables q a
  · rw [State.context_modContext, hp]
    split
    · rename_i hqa
      rw [hqa.1]
      exact hrows
    · exact h.entries q a
  · rw [hp]
    exact h.fits j hj
  · rw [State.context_modContext]
    split
    · rename_i hqa
      obtain ⟨rfl, rfl⟩ := hqa
      rw [hmarks]
      exact h.marks _ _ row
    · exact h.marks q a row
  · rw [hp] at hq
    rw [State.context_modContext]
    split
    · rename_i hqa
      rw [hqa.1] at hq
      exact ht hq
    · exact h.untracked q hq a

/-- A job retires: its entry is reset, the other jobs stay held (R17). -/
theorem retire (h : s.Jobs (j :: held)) (hc : ∀ r b, t.context r b = (s.resetEntry j.rank j.bank j.row).context r b)
    (hp : ∀ r, t.params r = s.params r) (hf : t.queue.full = true → held.length = 16)
    (hb : ∀ n, s.queue.stats.Balance (n + 1) → t.queue.stats.Balance n) : t.Jobs held := by
  have hcontext (r : Rank) (b : Bank) : t.context r b =
      if r = j.rank ∧ b = j.bank then
        (s.context j.rank j.bank).change j.row fun e => { e with count := 0, inherited := false, mark := false }
      else s.context r b := by
    rw [hc, State.resetEntry, State.context_modContext]
  obtain ⟨hnew, hapart⟩ := List.nodup_cons.mp h.apart
  have hsize : held.length + 1 ≤ 16 := h.size
  refine ⟨fun r b => ?_, fun r b e he => ?_, by omega, hapart, fun k hk => ?_, fun r b row => ?_, fun r hr b => ?_, hf,
    hb _ h.balance⟩
  · rw [hcontext]
    split
    · exact change_legal (h.tables _ _) (fun _ => rfl) fun _ _ => Nat.zero_le _
    · exact h.tables r b
  · rw [hp]
    rw [hcontext] at he
    split at he
    · rename_i hrb
      obtain ⟨x, hx, rfl⟩ := List.mem_map.mp he
      rw [hrb.1]
      split
      · exact h.entries _ _ x hx
      · exact h.entries _ _ x hx
    · exact h.entries r b e he
  · rw [hp]
    exact h.fits k (List.mem_cons_of_mem _ hk)
  · have hall := h.marks r b row
    rw [List.map_cons, List.mem_cons] at hall
    rw [hcontext]
    split
    · rename_i hrb
      obtain ⟨rfl, rfl⟩ := hrb
      rw [resetEntry_marksRow, ← hall]
      constructor
      · intro hk
        refine ⟨.inr hk, ?_⟩
        rintro rfl
        exact hnew hk
      · rintro ⟨hk | hk, hne⟩
        · exact absurd (congrArg (fun k : Rank × Bank × Nat => k.2.2) hk) hne
        · exact hk
    · rename_i hrb
      rw [← hall]
      refine ⟨.inr, fun hk => hk.resolve_left fun he => hrb ?_⟩
      cases he
      exact ⟨rfl, rfl⟩
  · rw [hp] at hr
    have hne : r ≠ j.rank := fun he => h.rank_ne hr j (List.mem_cons_self ..) he.symm
    rw [hcontext, if_neg fun hrb => hne hrb.1]
    exact h.untracked r hr b

/-- A job accepted: its entry is marked, and it is held besides the others (R16, R58 b). -/
theorem accept (h : s.Jobs held) (hroom : held.length < 16) (hj : j.Fits (s.params j.rank))
    (hn : (s.context j.rank j.bank).names j.row = true) (hm : ¬ (s.context j.rank j.bank).MarksRow j.row)
    (hc : ∀ r b, t.context r b = (s.markEntry j.rank j.bank j.row).context r b) (hp : ∀ r, t.params r = s.params r)
    (hf : t.queue.full = s.queue.full) (hb : ∀ n, s.queue.stats.Balance n → t.queue.stats.Balance (n + 1)) :
    t.Jobs (j :: held) := by
  have hcontext (r : Rank) (b : Bank) : t.context r b =
      if r = j.rank ∧ b = j.bank then (s.context j.rank j.bank).change j.row fun e => { e with mark := true }
      else s.context r b := by
    rw [hc, State.markEntry, State.context_modContext]
  refine ⟨fun r b => ?_, fun r b e he => ?_, hroom, ?_, fun k hk => ?_, fun r b row => ?_, fun r hr b => ?_, fun ht => ?_,
    hb _ h.balance⟩
  · rw [hcontext]
    split
    · exact change_legal (h.tables _ _) (fun _ => rfl) fun _ hle => hle
    · exact h.tables r b
  · rw [hp]
    rw [hcontext] at he
    split at he
    · rename_i hrb
      obtain ⟨x, hx, rfl⟩ := List.mem_map.mp he
      rw [hrb.1]
      split
      · exact h.entries _ _ x hx
      · exact h.entries _ _ x hx
    · exact h.entries r b e he
  · exact List.nodup_cons.mpr ⟨fun hk => hm ((h.marks _ _ _).mp hk), h.apart⟩
  · rw [hp]
    rcases List.mem_cons.mp hk with rfl | hk
    · exact hj
    · exact h.fits k hk
  · rw [List.map_cons, List.mem_cons, h.marks, hcontext]
    split
    · rename_i hrb
      obtain ⟨rfl, rfl⟩ := hrb
      rw [markEntry_marksRow hn, or_comm]
      simp [Job.key]
    · rename_i hrb
      refine ⟨fun hk => hk.resolve_left fun he => hrb ?_, .inr⟩
      cases he
      exact ⟨rfl, rfl⟩
  · rw [hp] at hr
    have hne : r ≠ j.rank := by
      rintro rfl
      obtain ⟨e, he, -⟩ := List.any_eq_true.mp hn
      rw [h.untracked _ hr] at he
      cases he
    rw [hcontext, if_neg fun hrb => hne hrb.1]
    exact h.untracked r hr b
  · have := h.full (hf ▸ ht)
    omega

/-- The jobs and the tables of a rank cleared (R21, R71, R72). TRACK of the rank may be written with them (R159). -/
theorem clearRank (h : s.Jobs held) (r : Rank) (hr : ∀ b, t.context r b = BankContext.empty)
    (hc : ∀ q, q ≠ r → ∀ b, t.context q b = s.context q b) (hp : ∀ q, q ≠ r → t.params q = s.params q)
    (hf : t.queue.full = true → (held.filter fun j => j.rank != r).length = 16)
    (hb : t.queue.stats.Balance (held.filter fun j => j.rank != r).length) :
    t.Jobs (held.filter fun j => j.rank != r) := by
  have hmem {j : Job} : j ∈ held.filter (fun j => j.rank != r) ↔ j ∈ held ∧ j.rank ≠ r := by
    simp [List.mem_filter]
  refine ⟨fun q b => ?_, fun q b e he => ?_, (List.length_filter_le _ _).trans h.size,
    h.apart.sublist (List.filter_sublist.map _), fun j hj => ?_, fun q b row => ?_, fun q hq b => ?_, hf, hb⟩
  · by_cases hq : q = r
    · rw [hq, hr]
      exact ⟨by decide, by decide, by simp [BankContext.empty], by decide, by decide⟩
    · rw [hc q hq]
      exact h.tables q b
  · by_cases hq : q = r
    · rw [hq, hr] at he
      cases he
    · rw [hc q hq] at he
      rw [hp q hq]
      exact h.entries q b e he
  · obtain ⟨hj, hq⟩ := hmem.mp hj
    rw [hp _ hq]
    exact h.fits j hj
  · by_cases hq : q = r
    · rw [hq, hr]
      constructor
      · intro hk
        obtain ⟨j, hj, hkey⟩ := List.mem_map.mp hk
        exact absurd (congrArg Prod.fst hkey) (hmem.mp hj).2
      · rintro ⟨e, he, -⟩
        cases he
    · rw [hc q hq, ← h.marks]
      constructor
      · exact fun hk => (List.filter_sublist.map _).subset hk
      · intro hk
        obtain ⟨j, hj, hkey⟩ := List.mem_map.mp hk
        exact List.mem_map.mpr ⟨j, hmem.mpr ⟨hj, fun hjr => hq ((congrArg Prod.fst hkey).symm.trans hjr)⟩, hkey⟩
  · by_cases hqr : q = r
    · rw [hqr, hr]
      rfl
    · rw [hc q hqr]
      exact h.untracked q (hp q hqr ▸ hq) b

/-- No job held and no entry in a table (R22). -/
theorem of_empty (hc : ∀ r b, s.context r b = BankContext.empty) (hf : s.queue.full = false)
    (hb : s.queue.stats.Balance 0) : s.Jobs [] where
  tables := fun r b => by
    rw [hc]
    exact ⟨by decide, by decide, by simp [BankContext.empty], by decide, by decide⟩
  entries := fun r b e he => by rw [hc] at he; cases he
  size := Nat.zero_le _
  apart := List.nodup_nil
  fits := fun j hj => by cases hj
  marks := fun r b row => by
    rw [hc]
    refine ⟨fun h => (List.not_mem_nil h).elim, ?_⟩
    rintro ⟨e, he, -⟩
    cases he
  untracked := fun r _ b => by rw [hc]; rfl
  full := fun h => by rw [hf] at h; cases h
  balance := hb

end State.Jobs

end Sys2Proof.Machine
end

section
/-! ### The invariant in three layers

`State.Inv` falls into what is kept once per rank with the link, the refusal unit and the port (`State.Frame`), the held jobs and
the ordered list (`State.Sound`), and the staged slot (`State.Steady`); what is left is the window record. Every operation on
tables and queue keeps the frame, since it is a move of the tables; a re-evaluation of a sound state is steady. -/

namespace Sys2Proof.Machine

open Sys2Proof

/-! #### The layers -/

/-- What the rules say of one rank, with the level of RESET/, the window and the slot in progress (R25, R38, R42, R80, R84, R100,
R125, R128, R142, R147, R148). -/
structure RankUnit.Legal (u : RankUnit) (r : Rank) (resetHigh : Bool) (window : Option Window) (now : Nat) : Prop where
  params : u.params.Legal
  repairsSize : u.repairs.length ≤ 16
  repairsInside : ∀ x ∈ u.repairs, x.row < u.params.rows ∧ x.spare < 64
  repairsApart : u.repairs.Pairwise fun x y => x.clashes y = false
  count : u.refreshCount < u.params.windowRefreshes
  debt : u.debt ≤ u.params.debtLimit
  service : u.state = .service ↔ ∃ w, window = some w ∧ w.rank = r
  low : resetHigh = false → u.state = .resetHold
  high : resetHigh = true → u.state ≠ .resetHold
  timer : u.TimerLegal
  closed : u.SleepsClosed
  banks : ∀ w, window = some w → w.rank = r → ∀ b : Bank,
    u.bankOpen.get b = true ↔ ∃ j, w.purpose = .job j ∧ w.stepOpen = true ∧ b = j.bank
  slots : (u.port.map PortBeat.slot).Nodup
  driven : ∀ q, u.portOut = some q → q.slot ≤ now ∧ ∀ p ∈ u.port, p.slot ≠ q.slot

/-- What the rules say of the part besides tables, queue and window record. -/
structure State.Frame (s : State) : Prop where
  ranks : ∀ r, (s.rank r).Legal r s.link.resetHigh s.engine.window s.clock.slot
  held : s.link.resetHigh = false → s.link.held = none
  stalePeriod : s.bands.stalePeriod ≤ 255
  distance : 2 ≤ s.refusals.distance ∧ s.refusals.distance ≤ 15
  refusals : s.refusals.Legal
  mgmt : s.mgmt.Legal
  active : ∀ w j, s.engine.window = some w → w.purpose = .job j → j.state = .running ∧ j.rank = w.rank

/-- A frame with its held jobs and its list. -/
structure State.Sound (s : State) : Prop where
  frame : s.Frame
  jobs : s.Jobs s.heldJobs
  listed : Listed s.queue.list

/-- A sound state with its staged slot as R66 says. -/
structure State.Steady (s : State) : Prop where
  sound : s.Sound
  staged : s.StagedLegal

/-- The number of held jobs is that of the list and the active slot (R57). -/
theorem heldCount_eq_length (s : State) : s.heldCount = s.heldJobs.length := by
  unfold State.heldCount State.heldJobs
  rw [List.length_append]
  cases s.active <;> rfl

theorem State.Frame.parameters {s : State} (h : s.Frame) : s.ParametersLegal where
  params := fun r => (h.ranks r).params
  repairs := fun r => ⟨(h.ranks r).repairsSize, (h.ranks r).repairsInside, (h.ranks r).repairsApart⟩
  refresh := fun r => ⟨(h.ranks r).count, (h.ranks r).debt⟩
  stalePeriod := h.stalePeriod
  distance := h.distance

/-- The invariant is a steady state with a legal window record. -/
theorem inv_iff {s : State} : s.Inv ↔ s.Steady ∧ ∀ w, s.engine.window = some w → w.Legal := by
  constructor
  · intro h
    have hr := h.ranks
    have hframe : s.Frame :=
      { ranks := fun r =>
          { params := h.parameters.params r
            repairsSize := (h.parameters.repairs r).size
            repairsInside := (h.parameters.repairs r).inside
            repairsApart := (h.parameters.repairs r).apart
            count := (h.parameters.refresh r).count
            debt := (h.parameters.refresh r).debt
            service := (hr.service r).trans State.windowOn_eq_true_iff
            low := fun hl => hr.reset.low hl r
            high := fun hl => hr.reset.high hl r
            timer := hr.timer r
            closed := hr.closed r
            banks := fun w hw hwr b => by
              have hb := hr.window w hw b
              rwa [hwr] at hb
            slots := (h.ports r).apart
            driven := (h.ports r).driven }
        held := hr.reset.held
        stalePeriod := h.parameters.stalePeriod
        distance := h.parameters.distance
        refusals := h.refusals
        mgmt := h.mgmt
        active := h.list.active }
    have hjobs : s.Jobs s.heldJobs :=
      { tables := h.tables
        entries := h.inside.entries
        size := heldCount_eq_length s ▸ h.held.size
        apart := by
          refine List.pairwise_map.mpr (h.held.apart.imp fun {a b} hab hk => hab ?_)
          cases a; cases b; cases hk
          exact ⟨rfl, rfl, rfl⟩
        fits := fun j hj => ⟨h.jobs j hj, (h.inside.jobs j hj).1, (h.inside.jobs j hj).2, h.radius j hj⟩
        marks := fun r b row => by
          refine Iff.trans ?_ (h.marks r b row)
          simp only [List.mem_map, Job.names_eq_true_iff]
        untracked := fun r ht b => (h.untracked r ht).1 b
        full := fun hf => (heldCount_eq_length s).symm.trans (h.full hf)
        balance := by
          have hb := h.balance
          rw [State.Balanced, heldCount_eq_length] at hb
          exact hb }
    exact ⟨⟨⟨hframe, hjobs, h.list.order, h.list.states⟩, h.staged⟩, h.window⟩
  · rintro ⟨⟨⟨hf, hj, hl⟩, hs⟩, hw⟩
    exact
      { parameters := hf.parameters
        tables := hj.tables
        refusals := hf.refusals
        ranks :=
          { service := fun r => (hf.ranks r).service.trans State.windowOn_eq_true_iff.symm
            reset := ⟨fun h r => (hf.ranks r).low h, fun h r => (hf.ranks r).high h, hf.held⟩
            timer := fun r => (hf.ranks r).timer
            closed := fun r => (hf.ranks r).closed
            window := fun w hw b => (hf.ranks w.rank).banks w hw rfl b }
        ports := fun r => ⟨(hf.ranks r).slots, (hf.ranks r).driven⟩
        window := hw
        jobs := fun j h => (hj.fits j h).legal
        held := ⟨heldCount_eq_length s ▸ hj.size, by
          refine (List.pairwise_map.mp hj.apart).imp fun {a b} hab hk => hab ?_
          obtain ⟨hr, hb, hrow⟩ := hk
          rw [Job.key, Job.key, hr, hb, hrow]⟩
        list := ⟨hl.order, hl.states, hf.active⟩
        staged := hs
        marks := fun r b row => by
          refine Iff.trans ?_ (hj.marks r b row)
          simp only [List.mem_map, Job.names_eq_true_iff]
        inside := ⟨hj.entries, fun j h => ⟨(hj.fits j h).row, (hj.fits j h).victims⟩⟩
        radius := fun j h => (hj.fits j h).radius
        untracked := fun r ht => ⟨hj.untracked r ht, hj.rank_ne ht⟩
        full := fun h => (heldCount_eq_length s).trans (hj.full h)
        mgmt := hf.mgmt
        balance := by
          rw [State.Balanced, heldCount_eq_length]
          exact hj.balance }

/-! #### Moves of the tables keep the frame -/

theorem TableMoves.legal {s t : State} (h : TableMoves s t) {r : Rank} {high : Bool} {window : Option Window} {now : Nat}
    (hl : (s.rank r).Legal r high window now) : (t.rank r).Legal r high window now := by
  rw [h.rank r]
  exact { hl with }

theorem TableMoves.frame {s t : State} (h : TableMoves s t) (hf : s.Frame) : t.Frame := by
  obtain ⟨-, -, hc, hl, hr, hm⟩ := State.shell_eq_iff.mp h.shell
  refine ⟨fun r => ?_, ?_, ?_, ?_, ?_, ?_, ?_⟩
  · rw [hl, h.window, hc]
    exact h.legal (hf.ranks r)
  · rw [hl]
    exact hf.held
  · rw [h.bands]
    exact hf.stalePeriod
  · rw [hr]
    exact hf.distance
  · rw [hr]
    exact hf.refusals
  · rw [hm]
    exact hf.mgmt
  · rw [h.window]
    exact hf.active

/-- The job of the active slot depends on the window alone. -/
theorem active_congr {s t : State} (h : t.engine.window = s.engine.window) : t.active = s.active := by
  simp only [State.active, h]

/-! #### EMPTY retirements and the re-evaluation -/

/-- An EMPTY retirement of a listed job, with `rest` held besides the list (R17, R59, R67 b). -/
theorem retireEmpty_jobs {s : State} {before behind rest : List Job} {j : Job} (hr : s.active.toList = rest)
    (h : s.Jobs (before ++ j :: behind ++ rest)) : (s.retireEmpty before j behind).Jobs (before ++ behind ++ rest) := by
  have hj : s.Jobs (j :: (before ++ behind ++ rest)) := by
    refine h.perm ?_
    simp only [List.append_assoc, List.cons_append]
    exact List.perm_middle.symm
  refine hj.retire (fun _ _ => rfl) (fun r => (retireEmpty_moves s before j behind).params r) (fun hf => ?_) fun n hb => ?_
  · have hcount : 16 ≤ (before ++ behind).length + (if s.active.isSome then 1 else 0) := by
      simp only [State.retireEmpty, State.resetEntry_queue, State.pushOutcome_queue, State.settleFull, Bool.and_eq_true,
        decide_eq_true_eq] at hf
      exact hf.2
    have hrest : rest.length = if s.active.isSome then 1 else 0 := by
      rw [← hr]
      cases s.active <;> rfl
    have hsize : (before ++ behind ++ rest).length + 1 ≤ 16 := hj.size
    rw [List.length_append, hrest] at hsize
    omega
  · have hb : s.queue.stats.Balance (n + 1) := hb
    unfold Stats.Balance at hb ⊢
    rw [State.retireEmpty_stats]
    dsimp only
    rw [hb, show BitVec.ofNat 32 (n + 1) = BitVec.ofNat 32 n + 1 from BitVec.ofNat_add ..]
    ac_rfl

/-- Staging one job changes nothing of the jobs but their states. -/
theorem stageAt_map {α : Type} (f : Job → α) (hf : ∀ (j : Job) (st : JobState), f { j with state := st } = f j)
    (before behind : List Job) (j : Job) : (stageAt before j behind).map f = (before ++ j :: behind).map f := by
  have hwait : f ∘ Job.wait = f := funext fun j => hf j .waiting
  simp only [stageAt, List.map_append, List.map_cons, List.map_map, hwait, hf]

/-- A re-evaluation keeps the held jobs and the list. -/
theorem restage_jobs {s : State} (hp : s.ParametersLegal) (hj : s.Jobs s.heldJobs) (hl : Listed s.queue.list) :
    s.restage.Jobs s.restage.heldJobs ∧ Listed s.restage.queue.list := by
  have hwait {s : State} {x : Job} (h : x.Fits (s.params x.rank)) : x.wait.Fits (s.params x.wait.rank) :=
    h.congr rfl rfl rfl
  refine restage_induction
    (P := fun s => s.ParametersLegal ∧ s.Jobs s.heldJobs ∧ Listed s.queue.list)
    (Q := fun s => s.Jobs s.heldJobs ∧ Listed s.queue.list) (fun s ⟨hp, hj, hl⟩ _ => ?_)
    (fun s before j behind l ⟨hp, hj, hl⟩ hs hv => ?_) (fun s before j behind ⟨hp, hj, hl⟩ hs _ _ => ?_) s ⟨hp, hj, hl⟩
  · have hkeys : (s.queue.list.map Job.wait).map Job.key = s.queue.list.map Job.key := by
      rw [List.map_map]
      rfl
    have hjobs : s.Jobs (s.queue.list.map Job.wait ++ s.active.toList) := by
      refine hj.update (by rw [List.map_append, hkeys, State.heldJobs, List.map_append]) fun x hx => ?_
      rcases List.mem_append.mp hx with hx | hx
      · obtain ⟨y, hy, rfl⟩ := List.mem_map.mp hx
        exact hwait (hj.fits y (List.mem_append_left _ hy))
      · exact hj.fits x (List.mem_append_right _ hx)
    refine ⟨hjobs.congr (fun _ _ => rfl) (fun _ => .of_eq rfl) rfl fun _ h => h,
      hl.of_classes (by rw [State.setList_list, List.map_map]; rfl) fun x hx => ?_⟩
    obtain ⟨y, hy, rfl⟩ := List.mem_map.mp hx
    exact nofun
  · obtain ⟨hlist, -, -⟩ := splitFirst_spec hs
    have hmem (x : Job) (hx : x ∈ before ++ behind) : x ∈ s.heldJobs := by
      rw [State.heldJobs, hlist]
      rcases List.mem_append.mp hx with h | h <;> simp [h]
    have hjobs : s.Jobs (stageAt before { j with victims := some l } behind ++ s.active.toList) := by
      refine hj.update (by rw [List.map_append, stageAt_map _ fun _ _ => rfl, State.heldJobs, hlist]; simp [Job.key]) fun x hx => ?_
      rcases List.mem_append.mp hx with hx | hx
      · rcases List.mem_append.mp hx with hx | hx
        · obtain ⟨y, hy, rfl⟩ := List.mem_map.mp hx
          exact hwait (hj.fits y (hmem y (List.mem_append_left _ hy)))
        · rcases List.mem_cons.mp hx with rfl | hx
          · have hfit := hj.fits j (by rw [State.heldJobs, hlist]; simp)
            exact (hfit.withVictims hp hv).congr rfl rfl rfl
          · obtain ⟨y, hy, rfl⟩ := List.mem_map.mp hx
            exact hwait (hj.fits y (hmem y (List.mem_append_right _ hy)))
      · exact hj.fits x (List.mem_append_right _ hx)
    refine ⟨hjobs.congr (fun _ _ => rfl) (fun _ => .of_eq rfl) rfl fun _ h => h,
      hl.of_classes (by rw [State.setList_list, stageAt_map _ fun _ _ => rfl, hlist]; simp) fun x hx => ?_⟩
    rw [State.setList_list, stageAt] at hx
    rcases List.mem_append.mp hx with hx | hx
    · obtain ⟨y, hy, rfl⟩ := List.mem_map.mp hx
      exact nofun
    · rcases List.mem_cons.mp hx with rfl | hx
      · exact nofun
      · obtain ⟨y, hy, rfl⟩ := List.mem_map.mp hx
        exact nofun
  · obtain ⟨hlist, -, -⟩ := splitFirst_spec hs
    have hm := (retireEmpty_moves s before j behind).table
    rw [hlist] at hl
    rw [State.heldJobs, hlist] at hj
    refine ⟨⟨fun r => ?_, fun r => ?_, fun r => ?_, ?_, ?_⟩, ?_, hl.without⟩
    · rw [hm.params]
      exact hp.params r
    · rw [hm.rank r]
      exact ⟨(hp.repairs r).size, (hp.repairs r).inside, (hp.repairs r).apart⟩
    · rw [hm.rank r]
      exact ⟨(hp.refresh r).count, (hp.refresh r).debt⟩
    · rw [hm.bands]
      exact hp.stalePeriod
    · exact hp.distance
    · rw [State.heldJobs, active_congr hm.window]
      exact retireEmpty_jobs rfl hj

/-- A re-evaluation of a sound state is steady. -/
theorem State.Sound.restage {s : State} (h : s.Sound) : s.restage.Steady := by
  obtain ⟨hj, hl⟩ := restage_jobs h.frame.parameters h.jobs h.listed
  exact ⟨⟨(restage_moves s).table.frame h.frame, hj, hl⟩, restage_staged s⟩

/-! #### New jobs, promotions, evaluations -/

/-- An entry found names its row. -/
theorem find_spec {c : BankContext} {row : Nat} {e : Entry} (h : c.find row = some e) : e ∈ c.entries ∧ e.row = row :=
  ⟨List.mem_of_find?_eq_some h, by simpa using List.find?_some h⟩

/-- In a legal table the entry found is the only one of its row, so its mark is the row's. -/
theorem marksRow_iff_of_find {c : BankContext} (hc : c.Legal) {row : Nat} {e : Entry} (h : c.find row = some e) :
    c.MarksRow row ↔ e.mark = true := by
  obtain ⟨he, hrow⟩ := find_spec h
  constructor
  · rintro ⟨x, hx, hxrow, hm⟩
    rwa [List.inj_on_of_nodup_map hc.rows he hx (hrow.trans hxrow.symm)]
  · exact fun hm => ⟨e, he, hrow, hm⟩

/-- A job is accepted for an unmarked row of the table with room in the queue (R16, R58 b, R60). -/
theorem State.Sound.acceptJob {s : State} (h : s.Sound) {r : Rank} {b : Bank} {row : Nat} (hroom : s.heldCount < 16)
    (hn : (s.context r b).names row = true) (hm : ¬ (s.context r b).MarksRow row) (k : JobClass) (o : Origin) (n : Nat) :
    (s.acceptJob r b row k o n).Steady := by
  have hjobs := h.jobs
  have hlist := h.listed
  refine State.Sound.restage ⟨?_, ?_, ?_⟩
  · exact ((setQueue_moves s _).trans (modContext_moves _ r b _)).frame h.frame
  · have hrow : row < (s.params r).rows := by
      obtain ⟨e, he, hrow⟩ := List.any_eq_true.mp hn
      rw [← eq_of_beq hrow]
      exact hjobs.entries r b e he
    have hfits : (s.newJob r b row k o n).Fits (s.params r) :=
      ⟨rfl, hrow, fun v hv => (List.not_mem_nil hv).elim, Nat.zero_le _⟩
    have hheld : s.heldJobs.length < 16 := heldCount_eq_length s ▸ hroom
    refine State.Jobs.perm (held := s.newJob r b row k o n :: s.heldJobs) (hjobs.accept hheld hfits hn hm (fun _ _ => rfl)
      (fun q => ((setQueue_moves s _).trans (modContext_moves _ r b _)).params q) rfl fun n hb => ?_) ?_
    · unfold Stats.Balance at hb ⊢
      show s.queue.stats.enqueued + 1 = _
      rw [hb, show BitVec.ofNat 32 (n + 1) = BitVec.ofNat 32 n + 1 from BitVec.ofNat_add ..]
      ac_rfl
    · exact List.Perm.append_right _ (placeJob_perm _ _)
  · exact hlist.placeJob nofun

/-- A promotion keeps a steady state (R63). -/
theorem State.Steady.promote {s : State} (h : s.Steady) (r : Rank) (b : Bank) (row : Nat) : (s.promote r b row).Steady := by
  rcases hs : splitFirst (fun j => j.names r b row && !j.urgent) s.queue.list with _ | ⟨before, j, behind⟩
  · unfold State.promote
    rw [hs]
    exact h
  · obtain ⟨hlist, -, -⟩ := splitFirst_spec hs
    have hjobs := h.sound.jobs
    have hl := h.sound.listed
    rw [promote_of_split hs]
    have hj : j ∈ s.queue.list := by simp [hlist]
    refine State.Sound.restage ⟨(setList_moves s _).table.frame h.sound.frame, ?_, ?_⟩
    · have hperm : (insertUrgent { j with cls := .urgent } (before ++ behind)).Perm
          ({ j with cls := .urgent } :: (before ++ behind)) := insertUrgent_perm _ _
      have hheld : s.Jobs (insertUrgent { j with cls := .urgent } (before ++ behind) ++ s.active.toList) := by
        refine hjobs.update ?_ fun x hx => ?_
        · rw [State.heldJobs, hlist, List.map_append, List.map_append]
          refine List.Perm.append_right _ ((hperm.map _).trans ?_)
          exact ((List.perm_middle (a := j) (l₁ := before) (l₂ := behind)).map Job.key).symm
        · rcases List.mem_append.mp hx with hx | hx
          · rcases List.mem_cons.mp (hperm.mem_iff.mp hx) with rfl | hx
            · exact (hjobs.fits j (List.mem_append_left _ hj)).congr rfl rfl rfl
            · refine hjobs.fits x (List.mem_append_left _ ?_)
              rw [hlist]
              rcases List.mem_append.mp hx with h | h <;> simp [h]
          · exact hjobs.fits x (List.mem_append_right _ hx)
      exact hheld.congr (fun _ _ => rfl) (fun _ => .of_eq rfl) rfl fun _ h => h
    · have hstate := hl.states j hj
      rw [hlist] at hl
      exact hl.without.insertUrgent rfl hstate

/-- An evaluation keeps a steady state (R10 to R12, R58, R59). -/
theorem State.Steady.evaluate {s : State} (h : s.Steady) (r : Rank) (b : Bank) (row : Nat) :
    (s.evaluate r b row).Steady := by
  cases hf : (s.context r b).find row with
  | none =>
    rw [evaluate_of_find_eq_none hf]
    exact h
  | some e =>
    cases hm : e.mark with
    | true =>
      rw [evaluate_of_marked hf hm]
      split
      · exact h.promote r b row
      · exact h
    | false =>
      by_cases hS : s.serviceLevel r ≤ e.count
      · rw [evaluate_of_unmarked_reached hf hm hS]
        by_cases hroom : s.heldCount < 16
        · obtain ⟨he, hrow⟩ := find_spec hf
          rw [enqueueAttempt_of_room hroom]
          refine h.sound.acceptJob hroom (List.any_eq_true.mpr ⟨e, he, beq_iff_eq.mpr hrow⟩) (fun hmark => ?_) _ _ _
          rw [marksRow_iff_of_find (h.sound.jobs.tables r b) hf, hm] at hmark
          cases hmark
        · rw [enqueueAttempt_of_full (Nat.le_of_not_lt hroom)]
          have hj := h.sound.jobs
          have hfull : s.heldJobs.length = 16 := by
            have hsize := hj.size
            rw [heldCount_eq_length] at hroom
            omega
          exact ⟨⟨(setQueue_moves s _).frame h.sound.frame, { hj with full := fun _ => hfull }, h.sound.listed⟩, h.staged⟩
      · rw [evaluate_of_unmarked_below hf hm (Nat.lt_of_not_le hS)]
        exact h

/-- A counted activation of a row of the bank keeps a steady state (R4 to R9). -/
theorem State.Steady.countActivation {s : State} (h : s.Steady) (r : Rank) (b : Bank) {row : Nat}
    (hrow : row < (s.params r).rows) : (s.countActivation r b row).Steady := by
  cases ht : (s.params r).track with
  | false =>
    simp only [State.countActivation, ht, Bool.false_eq_true, if_false]
    exact h
  | true =>
    have hj := h.sound.jobs
    obtain ⟨-, -, -, hlevels⟩ := effectiveThresholdsDerated s r
    have hceiling : s.ceiling r ≤ 4095 := (hlevels (h.sound.frame.ranks r).params).2.2.2.1
    rw [countActivation_of_track ht, modContext_eq_const]
    refine State.Steady.evaluate ⟨⟨(modContext_moves s r b _).frame h.sound.frame, ?_, h.sound.listed⟩, ?_⟩ r b row
    · refine hj.modContext r b (activate_legal (hj.tables r b) hceiling) (fun e he => ?_) activate_marksRow fun hoff => ?_
      · rcases row_of_mem_activate he with he | ⟨x, hx, he⟩
        · rw [he]
          exact hrow
        · rw [← he]
          exact hj.entries r b x hx
      · rw [ht] at hoff
        cases hoff
    · have he : (s.modContext r b fun _ => (s.context r b).activate (s.ceiling r) row).eligible = s.eligible := by
        funext j
        simp only [State.eligible, (modContext_moves s r b _).state]
      have hs := h.staged
      unfold State.StagedLegal at hs ⊢
      rwa [he]

/-! #### Takes -/

/-- A take from a sound state with the engine IDLE: no job, or the first job of the rank, RUNNING with its victim list and held
besides the list (R69, R81, R82). -/
theorem take_spec {s t : State} (h : s.Sound) (hw : s.engine.window = none) {r : Rank} {urgentOnly : Bool} {x : Option Job}
    (ht : s.take r urgentOnly = (t, x)) :
    t.Frame ∧ t.engine.window = none ∧ Listed t.queue.list ∧ t.Jobs (x.toList ++ t.queue.list) ∧
      ∀ j, x = some j → j.state = .running ∧ j.rank = r ∧ j.victims.isSome = true := by
  have hm := (take_moves s r urgentOnly).table
  rw [ht] at hm
  have hactive {s : State} (hw : s.engine.window = none) : s.active = none := by simp only [State.active, hw]
  have hjobs : s.Jobs s.queue.list := by
    have hj := h.jobs
    rwa [State.heldJobs, hactive hw, Option.toList_none, List.append_nil] at hj
  have htake := take_induction (r := r) (urgentOnly := urgentOnly)
    (P := fun s => s.engine.window = none ∧ s.Frame ∧ Listed s.queue.list ∧ s.Jobs s.queue.list)
    (Q := fun t x => Listed t.queue.list ∧ t.Jobs (x.toList ++ t.queue.list) ∧
      ∀ j, x = some j → j.state = .running ∧ j.rank = r ∧ j.victims.isSome = true)
    (fun s ⟨_, _, hl, hj⟩ => ⟨hl, hj, nofun⟩) (fun s before j behind l ⟨_, hf, hl, hj⟩ hfirst hv => ?_)
    (fun s before j behind ⟨hw, hf, hl, hj⟩ hfirst _ _ => ?_) s ⟨hw, h.frame, h.listed, hjobs⟩
  · rw [ht] at htake
    exact ⟨hm.frame h.frame, hm.window.trans hw, htake⟩
  · have hlist := hfirst.list
    rw [hlist] at hl
    refine ⟨hl.without, ?_, fun k hk => ?_⟩
    · have hheld : s.Jobs (j.taken l :: (before ++ behind)) := by
        have hperm : s.Jobs (j :: (before ++ behind)) := hj.perm (by rw [hlist]; exact List.perm_middle.symm)
        refine hperm.replace rfl ?_
        exact (Job.Fits.withVictims hf.parameters (hperm.fits j (List.mem_cons_self ..)) hv).congr rfl rfl rfl
      exact hheld.congr (fun _ _ => rfl) (fun _ => .of_eq rfl) rfl fun _ h => h
    · cases hk
      exact ⟨rfl, hfirst.rank, rfl⟩
  · have hlist := hfirst.list
    rw [hlist] at hl hj
    have hm := (retireEmpty_moves s before j behind).table
    refine ⟨hw, hm.frame hf, hl.without, ?_⟩
    have hretired := retireEmpty_jobs (rest := []) (by rw [hactive hw]; rfl) (by rwa [List.append_nil])
    rwa [List.append_nil] at hretired

end Sys2Proof.Machine
end

section
/-! ### Rank ports: the slots of engine commands and of forwarded ones

The search for two free slots succeeds within its fuel, since each beat on the port spoils at most two places (R128 b). The way
made for a forwarded command, place by place (R127, R128 a; log 22). -/

namespace Sys2Proof.Machine

open Sys2Proof

/-! #### The first two adjacent free slots (R128 b) -/

/-- Two adjacent slots that no beat on the port takes. -/
def RankUnit.PairFree (u : RankUnit) (k : Nat) : Prop := ∀ p ∈ u.port, p.slot ≠ k ∧ p.slot ≠ k + 1

theorem slotFree_and_iff {u : RankUnit} {k : Nat} : (u.slotFree k && u.slotFree (k + 1)) = true ↔ u.PairFree k := by
  simp only [RankUnit.slotFree, RankUnit.PairFree, Bool.and_eq_true, Bool.not_eq_true', List.any_eq_false, beq_iff_eq,
    ← forall_and, ne_eq]

/-- The search answers the first free pair, or the place where its fuel ends. -/
theorem freePair_spec (u : RankUnit) (n k : Nat) :
    k ≤ u.freePair n k ∧ (∀ i, k ≤ i → i < u.freePair n k → ¬ u.PairFree i) ∧
      (u.PairFree (u.freePair n k) ∨ u.freePair n k = k + n) := by
  induction n generalizing k with
  | zero => exact ⟨le_refl k, fun i h h' => absurd h' (Nat.not_lt.mpr h), .inr rfl⟩
  | succ n ih =>
    unfold RankUnit.freePair
    by_cases hf : u.PairFree k
    · rw [if_pos (slotFree_and_iff.mpr hf)]
      exact ⟨le_refl k, fun i h h' => absurd h' (Nat.not_lt.mpr h), .inl hf⟩
    · rw [if_neg (mt slotFree_and_iff.mp hf)]
      obtain ⟨hle, hbad, hend⟩ := ih (k + 1)
      refine ⟨by omega, fun i h h' => ?_, hend.imp id fun h => by omega⟩
      rcases Nat.eq_or_lt_of_le h with rfl | h
      · exact hf
      · exact hbad i h h'

/-- Not every place of a stretch longer than twice the number of beats is spoiled. -/
theorem exists_pairFree (u : RankUnit) (k : Nat) : ∃ i, k ≤ i ∧ i ≤ k + 2 * u.port.length ∧ u.PairFree i := by
  by_contra hnone
  push Not at hnone
  let spoiled : List Nat := u.port.map (fun p => p.slot) ++ u.port.map fun p => p.slot - 1
  have hsub : Finset.Icc k (k + 2 * u.port.length) ⊆ spoiled.toFinset := by
    intro i hi
    obtain ⟨hl, hr⟩ := Finset.mem_Icc.mp hi
    have hbad := hnone i hl hr
    unfold RankUnit.PairFree at hbad
    push Not at hbad
    obtain ⟨p, hp, hi⟩ := hbad
    refine List.mem_toFinset.mpr (List.mem_append.mpr ?_)
    by_cases hs : p.slot = i
    · exact .inl (List.mem_map.mpr ⟨p, hp, hs⟩)
    · exact .inr (List.mem_map.mpr ⟨p, hp, by have := hi hs; omega⟩)
  have hcard := (Finset.card_le_card hsub).trans (List.toFinset_card_le spoiled)
  simp only [Nat.card_Icc, spoiled, List.length_append, List.length_map] at hcard
  omega

/-- An engine command may take slots `k` and `k + 1`: from the slot of its instant on, behind the beat last driven, and free. -/
structure RankUnit.Takes (u : RankUnit) (m k : Nat) : Prop where
  instant : m ≤ k
  behind : ∀ p, u.portOut = some p → p.slot < k
  free : u.PairFree k

/-- The place an engine command's search begins at. -/
theorem engineSlot_eq (u : RankUnit) (m : Nat) : ∃ k₀, u.engineSlot m = u.freePair (2 * u.port.length) k₀ ∧
    ∀ k, k₀ ≤ k ↔ m ≤ k ∧ ∀ p, u.portOut = some p → p.slot < k := by
  unfold RankUnit.engineSlot
  cases u.portOut with
  | none => exact ⟨m, rfl, fun k => by simp⟩
  | some p => exact ⟨max m (p.slot + 1), rfl, fun k => by simp⟩

/-- An engine command takes the first slots it may take (R128 b). -/
theorem engineSlot_takes (u : RankUnit) (m : Nat) : u.Takes m (u.engineSlot m) ∧ ∀ k, u.Takes m k → u.engineSlot m ≤ k := by
  obtain ⟨k₀, heq, hk₀⟩ := engineSlot_eq u m
  obtain ⟨hle, hbad, hend⟩ := freePair_spec u (2 * u.port.length) k₀
  have hfree : u.PairFree (u.freePair (2 * u.port.length) k₀) := by
    rcases hend with h | h
    · exact h
    · obtain ⟨i, hi, hi', hf⟩ := exists_pairFree u k₀
      by_cases hlt : i < u.freePair (2 * u.port.length) k₀
      · exact absurd hf (hbad i hi hlt)
      · rwa [show i = u.freePair (2 * u.port.length) k₀ by omega] at hf
  rw [heq]
  obtain ⟨hm, hp⟩ := (hk₀ _).mp hle
  refine ⟨⟨hm, hp, hfree⟩, fun k hk => ?_⟩
  by_contra hlt
  exact hbad k ((hk₀ k).mpr ⟨hk.instant, hk.behind⟩) (Nat.lt_of_not_le hlt) hk.free

/-- The two beats of an engine command in slots it may take leave at most one beat in each slot (R128). -/
theorem slots_append_engineBeats {u : RankUnit} {m k : Nat} (h : u.Takes m k) (hs : (u.port.map PortBeat.slot).Nodup)
    (op : BitVec 4) (r : Rank) (bank : Bank) (operand : BitVec 17) :
    ((u.port ++ engineBeats k op r bank operand).map PortBeat.slot).Nodup := by
  rw [List.map_append]
  refine List.nodup_append.mpr ⟨hs, by simp [engineBeats], fun x hx y hy => ?_⟩
  obtain ⟨p, hp, rfl⟩ := List.mem_map.mp hx
  obtain ⟨hk, hk'⟩ := h.free p hp
  simp only [engineBeats, List.map_cons, List.map_nil, List.mem_cons, List.not_mem_nil, or_false] at hy
  rcases hy with rfl | rfl
  · exact hk
  · exact hk'

/-- An engine command stands behind the beat last driven. -/
theorem slot_ne_of_mem_engineBeats {u : RankUnit} {m k : Nat} (h : u.Takes m k) {q p : PortBeat} (hq : u.portOut = some q)
    {op : BitVec 4} {r : Rank} {bank : Bank} {operand : BitVec 17} (hp : p ∈ engineBeats k op r bank operand) :
    p.slot ≠ q.slot := by
  have hlt := h.behind q hq
  simp only [engineBeats, List.mem_cons, List.not_mem_nil, or_false] at hp
  rcases hp with rfl | rfl
  · exact Nat.ne_of_gt hlt
  · exact Nat.ne_of_gt (Nat.lt_succ_of_lt hlt)

/-! #### The way made for a forwarded command (R127, R128 a) -/

/-- A beat has left before slot n+2 when its slot has passed, or it is the SECOND beat of a command in slot n+1. -/
theorem over_iff {n : Nat} {p : PortBeat} :
    p.over (n + 2) = true ↔ p.slot ≤ n ∨ (p.slot = n + 1 ∧ p.word.toNat / 2 ^ 18 % 2 = 0) := by
  have hbit : p.word.getLsbD 18 = false ↔ p.word.toNat / 2 ^ 18 % 2 = 0 := by
    rw [BitVec.getLsbD, Nat.testBit_eq_decide_div_mod_eq, decide_eq_false_iff_not]
    omega
  simp only [PortBeat.over, Bool.or_eq_true, Bool.and_eq_true, Bool.not_eq_true', decide_eq_true_eq, hbit]
  omega

/-- Beats put off: as many as there were. -/
theorem putOff_length (e : Nat) (l : List PortBeat) : (putOff e l).length = l.length := by
  simpa using congrArg List.length (putOff_words e l)

/-- The first beat put off. -/
theorem putOff_zero {e : Nat} {l : List PortBeat} {p : PortBeat} (h : l[0]? = some p) :
    (putOff e l)[0]? = some { p with slot := max p.slot e } := by
  cases l with
  | nil => cases h
  | cons q rest =>
    cases h
    rfl

/-- Each later beat is put off behind the one before it. -/
theorem putOff_succ {e i : Nat} {l : List PortBeat} {p x : PortBeat} (hp : l[i + 1]? = some p)
    (hx : (putOff e l)[i]? = some x) : (putOff e l)[i + 1]? = some { p with slot := max p.slot (x.slot + 1) } := by
  induction l generalizing e i with
  | nil => cases hp
  | cons q rest ih =>
    cases i with
    | zero =>
      cases hx
      exact putOff_zero hp
    | succ i => exact ih hp hx

/-- Settles O33: engine commands by `engineSlot_takes`; a forwarded command by the beats that have left before it and those put
off. -/
theorem portSlotsAreShared : Obligations.PortSlotsAreShared := by
  unfold Obligations.PortSlotsAreShared
  refine ⟨fun u m => ?_, fun u n f b => ?_⟩
  · intro free
    obtain ⟨⟨hm, hp, hf⟩, hleast⟩ := engineSlot_takes u m
    exact ⟨⟨hm, hp, hf⟩, fun k ⟨hm, hp, hf⟩ => hleast k ⟨hm, hp, hf⟩⟩
  · intro left
    refine ⟨fun hall => makeWay_of_over fun p hp => over_iff.mpr (hall p hp),
      u.port.filter (PortBeat.over (n + 2)), u.port.filter (fun p => !p.over (n + 2)),
      putOff (n + 2 + 2) (u.port.filter fun p => !p.over (n + 2)), rfl, List.filter_append_perm _ _, List.filter_sublist,
      List.filter_sublist, fun p hp => over_iff.mp (List.mem_filter.mp hp).2, fun p hp hleft => ?_, putOff_length _ _,
      fun p hp => putOff_zero hp, fun i p x hp hx => putOff_succ hp hx⟩
    have hnot := (List.mem_filter.mp hp).2
    rw [over_iff.mpr hleft] at hnot
    cases hnot

end Sys2Proof.Machine
end

section
/-! ### The command link: REFRESH, sleep and grants

What an accepted REFRESH, SLEEP ENTER, SLEEP EXIT or SERVICE GRANT does, in one change of its rank and at most one window. The
beats on a port do not enter the re-evaluation of the queue, so the two may change places. -/

namespace Sys2Proof.Machine

open Sys2Proof

/-- Two changes of a rank that agree on it as it stands are the same. -/
theorem modRank_congr {s : State} {r : Rank} {f g : RankUnit → RankUnit} (h : f (s.rank r) = g (s.rank r)) :
    s.modRank r f = s.modRank r g :=
  congrArg (fun u => { s with ranks := s.ranks.set r u }) h

/-! #### Beats placed and re-evaluations -/

/-- A command forwarded before a re-evaluation or after it is the same. -/
theorem restage_forward (s : State) (n : Nat) (f : FirstBeat) (b : SecondBeat) :
    (s.forward n f b).restage = s.restage.forward n f b :=
  restage_onPort f.rank (makeWay (n + Config.forwardingDelay) (beatPair (n + Config.forwardingDelay) f b)) s

/-- An engine command placed on a port (R128 b, R168 c). -/
theorem engineDrive_eq (s : State) (m : Nat) (r : Rank) (op : BitVec 4) (bank : Bank) (operand : BitVec 17) :
    s.engineDrive m r op bank operand =
      s.modRank r fun u => { u with port := u.port ++ engineBeats (u.engineSlot m) op r bank operand } := by
  simp only [State.engineDrive, beatPair_engine]

/-- An engine command placed after a re-evaluation, as one placed before it. -/
theorem restage_engineDrive (s : State) (m : Nat) (r : Rank) (op : BitVec 4) (bank : Bank) (operand : BitVec 17) :
    s.restage.engineDrive m r op bank operand =
      (s.modRank r fun u =>
        { u with port := u.port ++ engineBeats ((s.rank r).engineSlot m) op r bank operand }).restage := by
  have hslot : (s.restage.rank r).engineSlot m = (s.rank r).engineSlot m :=
    engineSlot_congr ((restage_moves s).table.port r) ((restage_moves s).table.portOut r) m
  rw [engineDrive_eq]
  refine Eq.trans ?_ (restage_onPort r (· ++ engineBeats ((s.rank r).engineSlot m) op r bank operand) s).symm
  exact modRank_congr (by rw [hslot])

/-! #### Sleep (R146, R148, R149) -/

/-- An accepted SLEEP ENTER in one change of its rank. -/
theorem acceptSleepEnter_eq (s : State) (n : Nat) (f : FirstBeat) (b : SecondBeat) :
    s.acceptSleepEnter n f b = (s.modRank f.rank fun u => { u with
      state := .asleep, coverage := .running 0, port := u.forwarding n f b }).restage := by
  rw [State.acceptSleepEnter, ← restage_forward]
  exact congrArg State.restage (modRank_forward s n f b _ fun _ => rfl)

/-- What a covered exit clears, in one change of the queue and one of the rank (R149). -/
theorem cover_modRank (s : State) (r : Rank) (g : RankUnit → RankUnit) :
    (s.modRank r g).cover r =
      ({ s with queue := s.queueWithout r (s.queue.stats.addCovered (s.listedOf r)) }).modRank r fun u =>
        { g u with contexts := Vector.replicate 16 BankContext.empty, debt := 0, refreshCount := 0 } := by
  rw [State.cover, State.clearTables, State.modRank_modRank, State.dropJobs_eq_queueWithout]
  exact State.modRank_modRank { s with queue := s.queueWithout r (s.queue.stats.addCovered (s.listedOf r)) } r g _

/-- An accepted SLEEP EXIT that is short keeps what the rank held. -/
theorem acceptSleepExit_of_short {s : State} {f : FirstBeat} (h : (s.rank f.rank).covered = false) (n : Nat)
    (b : SecondBeat) :
    s.acceptSleepExit n f b = (s.modRank f.rank fun u => { u with
      state := .awake, coverage := .stopped, port := u.forwarding n f b }).restage := by
  simp only [State.acceptSleepExit, h, Bool.false_eq_true, if_false]
  rw [← restage_forward]
  exact congrArg State.restage (modRank_forward s n f b _ fun _ => rfl)

/-- An accepted SLEEP EXIT that is covered: the rank's jobs leave as COVERED, its tables and accounts are cleared. -/
theorem acceptSleepExit_of_covered {s : State} {f : FirstBeat} (h : (s.rank f.rank).covered = true) (n : Nat)
    (b : SecondBeat) :
    s.acceptSleepExit n f b =
      (({ s with queue := s.queueWithout f.rank (s.queue.stats.addCovered (s.listedOf f.rank)) }).modRank f.rank fun u =>
        { u with
          state := .awake, coverage := .stopped, debt := 0, refreshCount := 0
          contexts := Vector.replicate 16 BankContext.empty
          port := u.forwarding n f b }).restage := by
  simp only [State.acceptSleepExit, h, if_true]
  rw [← restage_forward, cover_modRank]
  exact congrArg State.restage (modRank_forward _ n f b _ fun _ => rfl)

/-- The exit is covered when the residency is above COVER_TIME (R149). -/
theorem covered_of_running {u : RankUnit} {k : Nat} (h : u.coverage = .running k) :
    u.covered = decide (u.params.coverTime < k) := by
  simp only [RankUnit.covered, h]

/-- Settles O28: each clause by the equation of the accepted command. -/
theorem sleepEnterAndExit : Obligations.SleepEnterAndExit := by
  unfold Obligations.SleepEnterAndExit
  refine ⟨fun s f b hs ha hclosed => ?_, ?_⟩
  · rw [exec_accepted (b := b) rfl hs.line hs.held (passes_of_closed hs ha hclosed (.inr (.inl rfl))),
      acceptHeld_of_sleepEnter hs.opcode, acceptSleepEnter_eq]
  intro s f b k r tallied hs ha hk
  refine ⟨fun hle => ?_, fun hlt => ?_⟩
  · have hshort : (s.consumed.rank r).covered = false :=
      (covered_of_running hk).trans (decide_eq_false (Nat.not_lt.mpr hle))
    rw [exec_accepted (b := b) rfl hs.line hs.held (passes_of_sleepExit hs ha), acceptHeld_of_sleepExit hs.opcode,
      acceptSleepExit_of_short hshort]
  · have hcovered : (s.consumed.rank r).covered = true := (covered_of_running hk).trans (decide_eq_true hlt)
    rw [exec_accepted (b := b) rfl hs.line hs.held (passes_of_sleepExit hs ha), acceptHeld_of_sleepExit hs.opcode,
      acceptSleepExit_of_covered hcovered]
    rfl

/-! #### REFRESH (R101 to R104) -/

/-- An accepted REFRESH counted, in one change of its rank. -/
theorem countRefresh_eq (s : State) (r : Rank) : s.countRefresh r = s.modRank r RankUnit.refreshCounted := by
  unfold State.countRefresh
  by_cases h : (s.rank r).refreshCount + 1 = (s.params r).windowRefreshes
  · rw [if_pos h]
    exact modRank_congr (if_pos h).symm
  · rw [if_neg h]
    exact modRank_congr (if_neg h).symm

/-- A REFRESH forwarded and counted, in one change of its rank. -/
theorem forward_countRefresh (s : State) (n : Nat) (f : FirstBeat) (b : SecondBeat) :
    (s.forward n f b).countRefresh f.rank =
      s.modRank f.rank fun u => ({ u with port := u.forwarding n f b }).refreshCounted := by
  rw [countRefresh_eq, forward_eq_modRank, State.modRank_modRank]

/-- The first job of the rank in list order is URGENT (R102 b). -/
theorem firstUrgent_eq_true_iff {s : State} {r : Rank} :
    s.firstUrgent r = true ↔ ∃ before j behind, s.FirstOfRank r before j behind ∧ j.cls = .urgent := by
  unfold State.firstUrgent
  split
  case h_2 hf =>
    refine ⟨nofun, fun ⟨before, j, behind, h, _⟩ => ?_⟩
    have hj := List.find?_eq_none.mp hf j (by simp [h.list])
    exact absurd (beq_iff_eq.mpr h.rank) hj
  case h_1 j hf =>
    rw [Job.urgent_eq_true_iff]
    obtain ⟨hr, before, behind, hlist, hbefore⟩ := List.find?_eq_some_iff_append.mp hf
    have hfirst : s.FirstOfRank r before j behind :=
      ⟨hlist, fun x hx hxr => by simpa [hxr] using hbefore x hx, beq_iff_eq.mp hr⟩
    refine ⟨fun hu => ⟨before, j, behind, hfirst, hu⟩, fun ⟨before', k, behind', h, hu⟩ => ?_⟩
    obtain ⟨-, rfl, -⟩ : before = before' ∧ j = k ∧ behind = behind' := by
      simpa using hfirst.split.symm.trans h.split
    exact hu

/-- The three conditions of a conversion (R102). -/
theorem mayConvert_eq_true_iff {s : State} {r : Rank} : s.mayConvert r = true ↔
    s.engine.window = none ∧ (∃ before j behind, s.FirstOfRank r before j behind ∧ j.cls = .urgent) ∧
      (s.rank r).debt < (s.params r).debtLimit := by
  simp only [State.mayConvert, Bool.and_eq_true, decide_eq_true_eq, State.idle, Option.isNone_iff_eq_none,
    firstUrgent_eq_true_iff, and_assoc]

/-- Settles O26: the conversion decision is the statement's; both branches forward and count. -/
theorem refreshForwardedAndCounted : Obligations.RefreshForwardedAndCounted := by
  unfold Obligations.RefreshForwardedAndCounted
  intro s f b r converts counted hs ha hclosed
  have hexec : exec (.refresh b) s = .next (s.consumed.acceptRefresh s.clock.slot f b) := by
    rw [exec_accepted (b := b) rfl hs.line hs.held (passes_of_closed hs ha hclosed (.inl rfl)), acceptHeld_of_refresh hs.opcode]
  refine ⟨fun h => ?_, fun t h ht => ?_⟩
  · have hmay : s.consumed.mayConvert r = false := by
      refine Bool.eq_false_iff.mpr fun hmay => h ?_
      obtain ⟨hw, ⟨before, j, behind, hj, hu⟩, hd⟩ := mayConvert_eq_true_iff.mp hmay
      exact ⟨hw, ⟨before, j, behind, ⟨hj.list, hj.earlier, hj.rank⟩, hu⟩, hd⟩
    rw [hexec, acceptRefresh_of_not_mayConvert hmay, forward_countRefresh]
  · obtain ⟨hw, ⟨before, j, behind, hj, hu⟩, hd⟩ := h
    have hmay : s.consumed.mayConvert r = true :=
      mayConvert_eq_true_iff.mpr ⟨hw, ⟨before, j, behind, ⟨hj.list, hj.earlier, hj.rank⟩, hu⟩, hd⟩
    rw [hexec, acceptRefresh_of_take_none hmay ht, forward_countRefresh]

/-! #### Windows that start (R80 to R84) -/

/-- A take that finds a job for a conversion met an URGENT job first (R82 b). -/
theorem firstUrgent_of_take {s t : State} {r : Rank} {j : Job} (h : s.take r true = (t, some j)) :
    ∃ before k behind, s.FirstOfRank r before k behind ∧ k.cls = .urgent := by
  rcases hs : splitFirst (fun j => j.rank == r) s.queue.list with _ | ⟨before, k, behind⟩
  · rw [take_of_none fun x hx => by simpa using splitFirst_eq_none.mp hs x hx] at h
    cases h
  · have hk := firstOfRank_of_split hs
    refine ⟨before, k, behind, hk, ?_⟩
    cases hc : k.cls with
    | urgent => rfl
    | normal =>
      rw [take_of_normal hk hc] at h
      cases h

/-- A take is a move of the tables. -/
theorem take_tableMoves {s t : State} {r : Rank} {urgentOnly : Bool} {x : Option Job} (h : s.take r urgentOnly = (t, x)) :
    TableMoves s t := by
  have hm := (take_moves s r urgentOnly).table
  rwa [h] at hm

/-- The window that starts after a take: clocks and parameters are those before the take. -/
theorem startWindow_of_take {s t : State} {r : Rank} {urgentOnly : Bool} {x : Option Job} (h : s.take r urgentOnly = (t, x))
    (kind : WindowKind) (purpose : Purpose) (length : Nat) :
    t.startWindow r kind purpose length =
      { t.modRank r (fun u => { u with state := .service }) with
        engine := { t.engine with window := some (s.freshWindow r kind purpose length) } } := by
  obtain ⟨-, -, hclock, -⟩ := State.shell_eq_iff.mp (take_tableMoves h).shell
  simp only [State.startWindow, State.freshWindow, (take_tableMoves h).params r, hclock]
  rfl

/-- A window that starts with a job and room for a step begins at the job's next victim (R83, R84). -/
theorem nextVictim_freshWindow {s : State} {r : Rank} {kind : WindowKind} {length : Nat} {j : Job} {l : List Nat} {v : Nat}
    (hj : j.victims = some l) (hv : l[j.served]? = some v) (hpos : 0 < (s.params r).stepTime)
    (hle : (s.params r).stepTime ≤ length) : (s.freshWindow r kind (.job j) length).nextVictim = some (j, v) := by
  have hserved : j.served < l.length := (List.getElem?_eq_some_iff.mp hv).1
  have hcapacity : 0 < length / (s.params r).stepTime := Nat.div_pos hle hpos
  have hsteps : (s.freshWindow r kind (.job j) length).stepsDone < (s.freshWindow r kind (.job j) length).steps := by
    rw [steps_of_job rfl, hj]
    show 0 < min (l.length - j.served) (min 4 (length / (s.params r).stepTime))
    omega
  rw [nextVictim_of_job rfl hsteps, hj]
  show (l[j.served + 0]?).map (fun v => (j, v)) = _
  rw [Nat.add_zero, hv]
  rfl

/-- The first step of a window that has one to make. -/
theorem firstStep_of_window {s : State} {w : Window} {j : Job} {v : Nat} (hw : s.engine.window = some w)
    (hv : w.nextVictim = some (j, v)) (m : Nat) : s.firstStep m = s.openStep m w j v := by
  simp only [State.firstStep, hw, hv]

/-- The take of the first job of a rank, with its victims (R69). -/
theorem take_of_victimsAre {s : State} {r : Rank} {urgentOnly : Bool} {before behind : List Job} {j : Job} {l : List Nat}
    (h : s.FirstOfRank r before j behind) (hu : urgentOnly = false ∨ j.cls = .urgent) (hl : s.VictimsAre j l)
    (hne : l ≠ []) : s.take r urgentOnly = (s.setList (before ++ behind), some (j.taken l)) :=
  take_of_victims h hu (hl.imp id fun ⟨hv, hf⟩ => ⟨hv, hf, hne⟩)

/-- Settles O27: the second clause from the equations of the take, the window and the count; the first from the second. -/
theorem refreshConvertedIntoWindow : Obligations.RefreshConvertedIntoWindow := by
  unfold Obligations.RefreshConvertedIntoWindow
  intro s f b r window recorded converted hs ha hclosed hw hd hpos hle
  have hconverts : ∀ t j l v, s.consumed.take r true = (t, some j) → j.victims = some l → l[j.served]? = some v →
      exec (.refresh b) s = .next (converted t j v) := by
    intro t j l v ht hj hv
    have hmay : s.consumed.mayConvert r = true := mayConvert_eq_true_iff.mpr ⟨hw, firstUrgent_of_take ht, hd⟩
    have hstart : t.startWindow r .converted (.job j) (s.params r).refreshLen =
        { t.modRank r (fun u => { u with state := .service }) with
          engine := { t.engine with window := some (window j) } } := startWindow_of_take ht ..
    have hlen : (t.params r).refreshLen = (s.params r).refreshLen := by
      rw [(take_tableMoves ht).params r]
      rfl
    have hcount : (t.convert r j).countRefresh r =
        (recorded t j).modRank r fun u => ({ u with debt := u.debt + 1 }).refreshCounted := by
      rw [countRefresh_eq, State.convert, hlen, hstart]
      exact State.modRank_modRank ..
    have hwindow : ((recorded t j).modRank r fun u => ({ u with debt := u.debt + 1 }).refreshCounted).engine.window =
        some (window j) := (restage_moves _).window
    rw [exec_accepted (b := b) rfl hs.line hs.held (passes_of_closed hs ha hclosed (.inl rfl)), acceptHeld_of_refresh hs.opcode,
      acceptRefresh_of_take_some hmay ht, hcount, firstStep_of_window hwindow (nextVictim_freshWindow hj hv hpos hle)]
  refine ⟨fun before j behind l v hfirst hu hl hv => ?_, hconverts⟩
  have hfirst : s.consumed.FirstOfRank r before j behind := ⟨hfirst.list, hfirst.earlier, hfirst.rank⟩
  exact hconverts _ _ l v (take_of_victimsAre hfirst (.inr hu) hl (List.ne_nil_of_mem (List.mem_of_getElem? hv))) rfl hv

/-! #### SERVICE GRANT (R81, R87, R88) -/

/-- A grant to an AWAKE rank with its banks CLOSED and the engine IDLE is accepted (R119, R121). -/
theorem exec_grant_accepted {s : State} {f : FirstBeat} {b : SecondBeat} (hs : s.Completes opServiceGrant f b)
    (ha : (s.rank f.rank).state = .awake) (hclosed : ∀ k, s.isOpen f.rank k = false) (hw : s.engine.window = none) :
    exec (.serviceGrant b) s = .next (s.consumed.acceptGrant s.clock.slot f) := by
  rw [exec_accepted (b := b) rfl hs.line hs.held (passes_of_closed hs ha hclosed (.inr (.inr ⟨rfl, hw⟩))),
    acceptHeld_of_serviceGrant hs.opcode]

/-- Settles O29: the second clause from the equations of the take and the window; the first from the second. -/
theorem grantStartsJobWindow : Obligations.GrantStartsJobWindow := by
  unfold Obligations.GrantStartsJobWindow
  intro s f b r window started hs ha hclosed hw hpos hle
  have hstarts : ∀ t j l v, s.consumed.take r false = (t, some j) → j.victims = some l → l[j.served]? = some v →
      exec (.serviceGrant b) s = .next (started t j v) := by
    intro t j l v ht hj hv
    have hstart : t.startWindow r .granted (.job j) (s.params r).grantLen =
        { t.modRank r (fun u => { u with state := .service }) with
          engine := { t.engine with window := some (window j) } } := startWindow_of_take ht ..
    have hwindow : (t.startWindow r .granted (.job j) (s.params r).grantLen).restage.engine.window = some (window j) := by
      rw [hstart]
      exact (restage_moves _).window
    rw [exec_grant_accepted hs ha hclosed hw, acceptGrant_of_take_some ht]
    refine congrArg Host.Outcome.next ?_
    exact (firstStep_of_window hwindow (nextVictim_freshWindow hj hv hpos hle) _).trans (by rw [hstart])
  refine ⟨fun before j behind l v hfirst hl hv => ?_, hstarts⟩
  have hfirst : s.consumed.FirstOfRank r before j behind := ⟨hfirst.list, hfirst.earlier, hfirst.rank⟩
  exact hstarts _ _ l v (take_of_victimsAre hfirst (.inl rfl) hl (List.ne_nil_of_mem (List.mem_of_getElem? hv))) rfl hv

/-- Settles O30: the second clause from the equations of the take and the window; the first is its take without a job. -/
theorem grantWithoutJobRepaysOrIsVacant : Obligations.GrantWithoutJobRepaysOrIsVacant := by
  unfold Obligations.GrantWithoutJobRepaysOrIsVacant
  intro s f b r repays started ends hs ha hclosed hw
  have hends : ∀ t, s.consumed.take r false = (t, none) → ends t := by
    intro t ht
    have hm := take_tableMoves ht
    refine ⟨fun h => ?_, fun h => ?_⟩
    · have hslot : ((t.startWindow r .granted .repay (s.params r).grantLen).rank r).engineSlot s.clock.slot =
          (s.rank r).engineSlot s.clock.slot := by
        rw [startWindow_of_take ht]
        refine engineSlot_congr ?_ ?_ _
        · exact (congrArg RankUnit.port (State.rank_modRank_same t r fun u => { u with state := .service })).trans (hm.port r)
        · exact (congrArg RankUnit.portOut (State.rank_modRank_same t r fun u => { u with state := .service })).trans
            (hm.portOut r)
      rw [exec_grant_accepted hs ha hclosed hw, acceptGrant_of_repay ht h]
      refine congrArg Host.Outcome.next ((restage_engineDrive ..).trans (congrArg State.restage ?_))
      show (t.startWindow r .granted .repay (s.params r).grantLen).modRank r (fun u => { u with
        port := u.port ++ engineBeats (((t.startWindow r .granted .repay (s.params r).grantLen).rank r).engineSlot s.clock.slot)
          opRefresh r 0 0 }) = _
      rw [hslot, startWindow_of_take ht]
      exact State.modRank_modRank { t with engine := { t.engine with
        window := some (s.freshWindow r .granted .repay (s.params r).grantLen) } } r (fun u => { u with state := .service }) _
    · rw [exec_grant_accepted hs ha hclosed hw, acceptGrant_of_vacant ht h]
      refine congrArg Host.Outcome.next (congrArg State.restage ((startWindow_of_take ht ..).trans ?_))
      simp only [List.append_nil]
      rfl
  exact ⟨fun h => hends _ (take_of_none h), hends⟩

end Sys2Proof.Machine
end

section
/-! ### The service engine's own rows: steps, expiries, and events that are not due

Each row of the part's own events by the condition it waits for: a step by the victim that is next, an expiry by the window
whose steps are all made. -/

namespace Sys2Proof.Machine

open Sys2Proof

/-! #### Steps of a window (R84) -/

/-- The beginning of a step in one change of the rank, then the counted activation (R84 a, R85, R125). -/
theorem openStep_eq (s : State) (m : Nat) (w : Window) (j : Job) (v : Nat) :
    s.openStep m w j v =
      ({ s.modRank w.rank (fun u => { u with
          bankOpen := u.bankOpen.set j.bank.val true j.bank.isLt
          port := u.port ++ engineBeats (u.engineSlot m) opOpen w.rank j.bank (BitVec.ofNat 17 v) }) with
        engine := { s.engine with window := some { w with stepOpen := true } } }).countActivation w.rank j.bank v := by
  rw [State.openStep, engineDrive_eq]
  exact congrArg (fun t : State => t.countActivation w.rank j.bank v) (State.modRank_modRank { s with
    engine := { s.engine with window := some { w with stepOpen := true } } } w.rank _ _)

/-- The end of a step in one change of the rank (R84 b and c, R125). -/
theorem closeStep_eq (s : State) (m : Nat) (w : Window) (j : Job) :
    s.closeStep m w j =
      { s.modRank w.rank (fun u => { u with
          bankOpen := u.bankOpen.set j.bank.val false j.bank.isLt
          port := u.port ++ engineBeats (u.engineSlot m) opClose w.rank j.bank 0 }) with
        engine := { s.engine with window := some { w with stepOpen := false, stepsDone := w.stepsDone + 1 } } } := by
  rw [State.closeStep, engineDrive_eq]
  exact State.modRank_modRank { s with
    engine := { s.engine with window := some { w with stepOpen := false, stepsDone := w.stepsDone + 1 } } } w.rank _ _

section Steps

variable {s : State} {w : Window} {j : Job} {l : List Nat} {v : Nat} (early : Bool)

/-- ENGINE_OPEN with a step to begin. -/
theorem exec_engineOpen_of_next (hw : s.engine.window = some w) (ho : w.stepOpen = false) (hv : w.nextVictim = some (j, v)) :
    exec (.engineOpen early) s =
      .next ((s.reach (w.start + w.stepsDone * w.stepTime)).openStep (s.instantSlot early) w j v) := by
  simp only [exec, execEngineOpen, hw, ho, hv, Bool.false_eq_true, if_false]

/-- ENGINE_OPEN with no step to begin: no window, one in progress, or none left to make. -/
theorem exec_engineOpen_of_none (h : ∀ w, s.engine.window = some w → w.stepOpen = true ∨ w.nextVictim = none) :
    exec (.engineOpen early) s = .next s := by
  cases hw : s.engine.window with
  | none => simp only [exec, execEngineOpen, hw]
  | some w =>
    cases ho : w.stepOpen with
    | true => simp only [exec, execEngineOpen, hw, ho, if_true]
    | false =>
      have hv := (h w hw).resolve_left (by simp [ho])
      simp only [exec, execEngineOpen, hw, ho, hv, Bool.false_eq_true, if_false]

/-- ENGINE_CLOSE with a step in progress. -/
theorem exec_engineClose_of_open (hw : s.engine.window = some w) (hp : w.purpose = .job j) (ho : w.stepOpen = true) :
    exec (.engineClose early) s =
      .next ((s.reach (w.start + (w.stepsDone + 1) * w.stepTime)).closeStep (s.instantSlot early) w j) := by
  simp only [exec, execEngineClose, hw, hp, ho, if_true]

/-- ENGINE_CLOSE with no step in progress. -/
theorem exec_engineClose_of_none
    (h : ∀ w, s.engine.window = some w → w.stepOpen = false ∨ w.purpose = .vacant ∨ w.purpose = .repay) :
    exec (.engineClose early) s = .next s := by
  cases hw : s.engine.window with
  | none => simp only [exec, execEngineClose, hw]
  | some w =>
    rcases h w hw with ho | hp | hp
    · cases hp : w.purpose with
      | job j => simp only [exec, execEngineClose, hw, hp, ho, Bool.false_eq_true, if_false]
      | vacant => simp only [exec, execEngineClose, hw, hp]
      | repay => simp only [exec, execEngineClose, hw, hp]
    · simp only [exec, execEngineClose, hw, hp]
    · simp only [exec, execEngineClose, hw, hp]

/-- The steps of a JOB window whose job has its victim list. -/
theorem steps_of_victims (hp : w.purpose = .job j) (hl : j.victims = some l) :
    w.steps = min (l.length - j.served) w.capacity := by
  rw [steps_of_job hp, hl]
  rfl

/-- The next victim of a JOB window whose job has its victim list. -/
theorem nextVictim_of_victims (hp : w.purpose = .job j) (hl : j.victims = some l)
    (h : w.stepsDone < min (l.length - j.served) w.capacity) (hv : l[j.served + w.stepsDone]? = some v) :
    w.nextVictim = some (j, v) := by
  rw [nextVictim_of_job hp (by rwa [steps_of_victims hp hl]), hl]
  exact congrArg (Option.map fun v => (j, v)) hv

/-- A window without a job makes no step. -/
theorem steps_of_jobless (hp : w.purpose = .vacant ∨ w.purpose = .repay) : w.steps = 0 := by
  rcases hp with hp | hp
  · simp only [Window.steps, hp]
  · simp only [Window.steps, hp]

end Steps

/-- Settles O31: the beginning of a step, and the row that makes the next one. -/
theorem engineOpenBeginsNextStep : Obligations.EngineOpenBeginsNextStep := by
  unfold Obligations.EngineOpenBeginsNextStep
  refine ⟨openStep_eq, fun s early w j l v hw hp hl ho hlt hv => ?_⟩
  rw [exec_engineOpen_of_next early hw ho (nextVictim_of_victims hp hl hlt hv)]
  rfl

/-- Settles O32: the end of a step. -/
theorem engineCloseCompletesStep : Obligations.EngineCloseCompletesStep := by
  unfold Obligations.EngineCloseCompletesStep
  intro s early w j hw hp ho
  rw [exec_engineClose_of_open early hw hp ho, closeStep_eq]
  rfl

/-! #### The expiry of a window (R89) -/

/-- A window is spent when no step is in progress and all are made (R84, R89). -/
theorem spent_iff {w : Window} : w.spent = true ↔ w.stepOpen = false ∧ w.steps ≤ w.stepsDone := by
  simp only [Window.spent, Bool.and_eq_true, Bool.not_eq_true', decide_eq_true_eq]

section Expiry

variable {s : State} {w : Window}

/-- The expiry of a spent window. -/
theorem exec_windowExpiry_of_spent (hw : s.engine.window = some w) (h : w.spent = true) :
    exec .windowExpiry s = .next (((s.endWindow w).pushOutcome w.outcome).settleWindow w).restage := by
  simp only [exec, execWindowExpiry, hw, h, if_true]

/-- An expiry that is not due. -/
theorem exec_windowExpiry_of_none (h : ∀ w, s.engine.window = some w → w.spent = false) :
    exec .windowExpiry s = .next s := by
  cases hw : s.engine.window with
  | none => simp only [exec, execWindowExpiry, hw]
  | some w => simp only [exec, execWindowExpiry, hw, h w hw, Bool.false_eq_true, if_false]

/-- A JOB window that served the last victim retires its job (R70). -/
theorem settleWindow_of_done {j : Job} (hp : w.purpose = .job j) (h : j.served + w.stepsDone = j.listed) :
    s.settleWindow w = s.retireDone j := by
  simp only [State.settleWindow, hp, h, if_true]

/-- A JOB window that leaves victims unserved returns its job (R64). -/
theorem settleWindow_of_partial {j : Job} (hp : w.purpose = .job j) (h : j.served + w.stepsDone ≠ j.listed) :
    s.settleWindow w = s.requeue j w.stepsDone := by
  simp only [State.settleWindow, hp, h, if_false]

/-- The outcome of a JOB window (R90). -/
theorem outcome_of_job {j : Job} (hp : w.purpose = .job j) : w.outcome =
    { kind := if j.served + w.stepsDone = j.listed then .done else .partialEnd
      windowKind := some w.kind, rank := w.rank, job := some j.number, served := w.stepsDone, listed := j.listed } := by
  simp only [Window.outcome, hp]

end Expiry

/-- Settles O34: the spent window's outcome, and its job retired or returned. -/
theorem windowExpiryDoneOrPartial : Obligations.WindowExpiryDoneOrPartial := by
  unfold Obligations.WindowExpiryDoneOrPartial
  intro s w j l ended hw hp hl ho hsteps
  have hspent : w.spent = true := spent_iff.mpr ⟨ho, by rwa [steps_of_victims hp hl]⟩
  have hlisted : j.listed = l.length := by rw [Job.listed, hl, Option.getD_some]
  refine ⟨fun h => ?_, fun h => ?_⟩
  · rw [← hlisted] at h
    rw [exec_windowExpiry_of_spent hw hspent, settleWindow_of_done hp h, outcome_of_job hp, if_pos h, hlisted]
    rfl
  · rw [← hlisted] at h
    rw [exec_windowExpiry_of_spent hw hspent, settleWindow_of_partial hp h, outcome_of_job hp, if_neg h, hlisted]
    rfl

/-- Settles O35: a window without a job is spent as soon as no step is in progress. -/
theorem windowExpiryWithoutJob : Obligations.WindowExpiryWithoutJob := by
  unfold Obligations.WindowExpiryWithoutJob
  intro s w ended hw ho
  refine ⟨fun hp => ?_, fun hp => ?_⟩
  · have hspent : w.spent = true := spent_iff.mpr ⟨ho, by rw [steps_of_jobless (.inr hp)]; exact Nat.zero_le _⟩
    rw [exec_windowExpiry_of_spent hw hspent]
    simp only [State.settleWindow, Window.outcome, hp]
    exact congrArg (fun t : State => Host.Outcome.next t.restage) (State.modRank_modRank { s.reach w.finish with
      queue := { s.queue with stats := { s.queue.stats with repaid := s.queue.stats.repaid + 1 } }
      engine :=
        { window := none
          newest := some { kind := .repaid, windowKind := some w.kind, rank := w.rank, job := none, served := 0, listed := 0 }
          previous := s.engine.newest } } w.rank (fun u => { u with state := .awake }) _)
  · have hspent : w.spent = true := spent_iff.mpr ⟨ho, by rw [steps_of_jobless (.inl hp)]; exact Nat.zero_le _⟩
    rw [exec_windowExpiry_of_spent hw hspent]
    simp only [State.settleWindow, Window.outcome, hp]
    rfl

/-! #### Beats, pulses and expiries by their slot or their time (R127, R134, R30) -/

/-- A beat before its slot stays on the port. -/
theorem emit_of_early {u : RankUnit} {n : Nat} (h : u.port = [] ∨ ∃ p rest, u.port = p :: rest ∧ n < p.slot) : u.emit n = u := by
  unfold RankUnit.emit
  rcases h with h | ⟨p, rest, h, hlt⟩
  · simp only [h]
  · simp only [h, Nat.not_le.mpr hlt, if_false]

/-- A beat whose slot has come leaves. -/
theorem emit_of_due {u : RankUnit} {n : Nat} {p : PortBeat} {rest : List PortBeat} (h : u.port = p :: rest)
    (hle : p.slot ≤ n) : u.emit n = { u with port := rest, portOut := some p } := by
  simp only [RankUnit.emit, h, hle, if_true]

/-- A rank set to what it is. -/
theorem modRank_self {s : State} {r : Rank} {f : RankUnit → RankUnit} (h : f (s.rank r) = s.rank r) : s.modRank r f = s := by
  have hranks : s.ranks.set r (s.rank r) = s.ranks := by
    refine PerRank.ext_get fun q => ?_
    by_cases hq : q = r
    · subst hq
      exact PerRank.get_set_same ..
    · exact PerRank.get_set_ne _ _ hq
  rw [modRank_congr (g := id) h]
  exact congrArg (fun p => { s with ranks := p }) hranks

/-- Settles O36: each row by the equation for what is not due. -/
theorem eventsNotDueChangeNothing : Obligations.EventsNotDueChangeNothing := by
  unfold Obligations.EventsNotDueChangeNothing
  intro s early r
  refine ⟨fun hnone => ?_, fun w hw => ⟨fun ho => ?_, fun ho => ?_, fun hp => ?_, fun j l hp hl => ⟨fun h => ?_, fun h => ?_⟩⟩,
    fun h => ?_, fun h => ?_, fun h => ?_⟩
  · exact ⟨exec_engineOpen_of_none early (by simp [hnone]), exec_engineClose_of_none early (by simp [hnone]),
      exec_windowExpiry_of_none (by simp [hnone])⟩
  · refine ⟨exec_engineOpen_of_none early fun x hx => ?_, exec_windowExpiry_of_none fun x hx => ?_⟩
    · obtain rfl := Option.some.inj (hw.symm.trans hx)
      exact .inl ho
    · obtain rfl := Option.some.inj (hw.symm.trans hx)
      simp [Window.spent, ho]
  · refine exec_engineClose_of_none early fun x hx => ?_
    obtain rfl := Option.some.inj (hw.symm.trans hx)
    exact .inl ho
  · refine ⟨exec_engineOpen_of_none early fun x hx => ?_, exec_engineClose_of_none early fun x hx => ?_⟩
    · obtain rfl := Option.some.inj (hw.symm.trans hx)
      exact .inr (nextVictim_of_spent (by rw [steps_of_jobless hp]; exact Nat.zero_le _))
    · obtain rfl := Option.some.inj (hw.symm.trans hx)
      exact .inr hp
  · refine exec_engineOpen_of_none early fun x hx => ?_
    obtain rfl := Option.some.inj (hw.symm.trans hx)
    exact .inr (nextVictim_of_spent (by rwa [steps_of_victims hp hl]))
  · refine exec_windowExpiry_of_none fun x hx => ?_
    obtain rfl := Option.some.inj (hw.symm.trans hx)
    rw [← steps_of_victims hp hl] at h
    simp [Window.spent, h]
  · have hdue : s.bands.timer.due = false := by
      rcases h with h | ⟨p, m, h, hlt⟩
      · simp [h, StaleTimer.due]
      · simp [h, StaleTimer.due, hlt]
    simp only [exec, execStalenessExpiry, hdue, Bool.false_eq_true, if_false]
  · exact congrArg Host.Outcome.next (modRank_self (emit_of_early h))
  · rcases h with h | ⟨n, rest, h, hlt⟩
    · simp only [exec, execAlertPulse, h]
    · simp only [exec, execAlertPulse, h, Nat.not_le.mpr hlt, if_false]

/-- Settles O38: the beat and the pulse that are due, and the pins after them. -/
theorem beatsAndPulsesLeave : Obligations.BeatsAndPulsesLeave := by
  unfold Obligations.BeatsAndPulsesLeave
  refine ⟨fun s r p rest hport hle => ⟨?_, fun n => ?_⟩, fun s n rest hs hle => ⟨?_, fun m => ?_⟩⟩
  · exact congrArg Host.Outcome.next (modRank_congr (emit_of_due hport hle))
  · rw [State.portWord, State.rank_modRank_same]
    by_cases h : n = p.slot
    · exact (if_pos h.symm).trans (if_pos h).symm
    · exact (if_neg (Ne.symm h)).trans (if_neg h).symm
  · simp only [exec, execAlertPulse, hs, hle, if_true]
  · rw [State.alertLow, beq_iff_eq]
    exact ⟨fun h => (Option.some.inj h).symm, fun h => congrArg some h.symm⟩

end Sys2Proof.Machine
end

section
/-! ### One rank through its changes

What each change of a rank keeps of `RankUnit.Legal`: beats placed and emitted, banks, sleep, windows that start, step and end,
and the accounts of the refresh unit. -/

namespace Sys2Proof.Machine

open Sys2Proof

/-- What PORT_EMIT changes of a rank. -/
theorem emit_eq (u : RankUnit) (n : Nat) : u.emit n = { u with port := (u.emit n).port, portOut := (u.emit n).portOut } := by
  unfold RankUnit.emit
  split
  · split <;> rfl
  · rfl

namespace RankUnit.Legal

section Unit

variable {u : RankUnit} {r : Rank} {high : Bool} {window : Option Window} {now : Nat}

/-- Later, in a further slot. -/
theorem later (h : u.Legal r high window now) {n : Nat} (hle : now ≤ n) : u.Legal r high window n :=
  { h with driven := fun q hq => ⟨(h.driven q hq).1.trans hle, (h.driven q hq).2⟩ }

/-- A rank that is not in SERVICE carries no window. -/
theorem no_window (h : u.Legal r high window now) (hs : u.state ≠ .service) : ∀ w, window = some w → w.rank ≠ r :=
  fun w hw hr => hs (h.service.mpr ⟨w, hw, hr⟩)

/-- Another window, both of them on the other rank. -/
theorem other (h : u.Legal r high window now) {window' : Option Window} (hw : ∀ w, window = some w → w.rank ≠ r)
    (hw' : ∀ w, window' = some w → w.rank ≠ r) : u.Legal r high window' now :=
  { h with
    service := h.service.trans ⟨fun ⟨w, h, hr⟩ => absurd hr (hw w h), fun ⟨w, h, hr⟩ => absurd hr (hw' w h)⟩
    banks := fun w h hr => absurd hr (hw' w h) }

/-- The coverage timer of a rank that does not sleep is STOPPED (R148). -/
theorem stopped (h : u.Legal r high window now) (hs : u.state ≠ .asleep) : u.coverage = .stopped := by
  have ht := h.timer
  unfold RankUnit.TimerLegal at ht
  cases hc : u.coverage with
  | stopped => rfl
  | running k =>
    rw [hc] at ht
    exact absurd ht.1 hs

/-! #### Beats -/

/-- Other beats on the port. -/
theorem withPort (h : u.Legal r high window now) {l : List PortBeat} (hp : RankUnit.PortLegal { u with port := l } now) :
    RankUnit.Legal { u with port := l } r high window now :=
  { h with slots := hp.apart, driven := hp.driven }

/-- A command forwarded (R127, R128 a). -/
theorem forwarded (h : u.Legal r high window now) (f : FirstBeat) (b : SecondBeat) :
    RankUnit.Legal { u with port := u.forwarding now f b } r high window now := by
  have hp := forwarding_legal ⟨h.slots, h.driven⟩ f b
  exact h.withPort ⟨hp.apart, fun q hq => ⟨(h.driven q hq).1, (hp.driven q hq).2⟩⟩

/-- An engine command placed (R128 b). -/
theorem driving (h : u.Legal r high window now) (m : Nat) (op : BitVec 4) (q : Rank) (bank : Bank) (operand : BitVec 17) :
    RankUnit.Legal { u with port := u.port ++ engineBeats (u.engineSlot m) op q bank operand } r high window now := by
  obtain ⟨htakes, -⟩ := engineSlot_takes u m
  refine h.withPort ⟨slots_append_engineBeats htakes h.slots op q bank operand, fun x hx => ⟨(h.driven x hx).1, fun p hp => ?_⟩⟩
  rcases List.mem_append.mp hp with hp | hp
  · exact (h.driven x hx).2 p hp
  · exact slot_ne_of_mem_engineBeats htakes hx hp

/-- A beat that leaves (R127). -/
theorem emitted (h : u.Legal r high window now) : (u.emit now).Legal r high window now := by
  have hp := emit_legal (n := now) (u := u) ⟨h.slots, h.driven⟩
  rw [emit_eq] at hp ⊢
  exact { h with slots := hp.apart, driven := hp.driven }

/-! #### Banks and sleep -/

/-- Other banks of an AWAKE rank (R124). -/
theorem withBanks (h : u.Legal r high window now) (ha : u.state = .awake) (v : Vector Bool 16) :
    RankUnit.Legal { u with bankOpen := v } r high window now :=
  { h with
    closed := fun hs => by simp [ha] at hs
    banks := fun w hw hr => absurd hr (h.no_window (by simp [ha]) w hw) }

/-- RESET/ is high while a rank is out of RESET HOLD. -/
theorem resetHigh (h : u.Legal r high window now) (hs : u.state ≠ .resetHold) : high = true := by
  cases hh : high with
  | true => rfl
  | false => exact absurd (h.low hh) hs

/-- An AWAKE rank with its banks CLOSED falls ASLEEP (R146, R148). -/
theorem slept (h : u.Legal r high window now) (ha : u.state = .awake) (hc : ∀ b : Bank, u.bankOpen.get b = false) :
    RankUnit.Legal { u with state := .asleep, coverage := .running 0 } r high window now :=
  { h with
    service := ⟨nofun, fun ⟨w, hw, hr⟩ => absurd hr (h.no_window (by simp [ha]) w hw)⟩
    low := fun hl => by simp [h.resetHigh (by simp [ha])] at hl
    high := fun _ => nofun
    timer := ⟨rfl, Nat.zero_le _⟩
    closed := fun _ => hc
    banks := fun w hw hr => absurd hr (h.no_window (by simp [ha]) w hw) }

/-- An ASLEEP rank wakes (R149). -/
theorem woken (h : u.Legal r high window now) (ha : u.state = .asleep) :
    RankUnit.Legal { u with state := .awake, coverage := .stopped } r high window now :=
  { h with
    service := ⟨nofun, fun ⟨w, hw, hr⟩ => absurd hr (h.no_window (by simp [ha]) w hw)⟩
    low := fun hl => by simp [h.resetHigh (by simp [ha])] at hl
    high := fun _ => nofun
    timer := nofun
    closed := nofun
    banks := fun w hw hr => absurd hr (h.no_window (by simp [ha]) w hw) }

/-! #### Windows -/

/-- A window starts on an AWAKE rank with its banks CLOSED (R80, R143). -/
theorem started (h : u.Legal r high window now) (ha : u.state = .awake) (hc : ∀ b : Bank, u.bankOpen.get b = false)
    {w : Window} (hr : w.rank = r) (ho : w.stepOpen = false) :
    RankUnit.Legal { u with state := .service } r high (some w) now :=
  { h with
    service := ⟨fun _ => ⟨w, rfl, hr⟩, fun _ => rfl⟩
    low := fun hl => by simp [h.resetHigh (by simp [ha])] at hl
    high := fun _ => nofun
    timer := by
      rw [RankUnit.TimerLegal]
      simp [h.stopped (by simp [ha])]
    closed := nofun
    banks := fun x hx _ b => by
      cases hx
      simp [hc b, ho] }

/-- A window whose last step is over ends (R89, R143). -/
theorem ended {w : Window} (h : u.Legal r high (some w) now) (hr : w.rank = r) :
    RankUnit.Legal { u with state := .awake } r high none now := by
  have hs : u.state = .service := h.service.mpr ⟨w, rfl, hr⟩
  exact
    { h with
      service := ⟨nofun, nofun⟩
      low := fun hl => by simp [h.resetHigh (by simp [hs])] at hl
      high := fun _ => nofun
      timer := by
        rw [RankUnit.TimerLegal]
        simp [h.stopped (by simp [hs])]
      closed := nofun
      banks := nofun }

/-- A step begins or ends: the bank of the job alone changes (R84, R125). -/
theorem stepped {w w' : Window} (h : u.Legal r high (some w) now) (hr : w.rank = r) (hr' : w'.rank = r) {j : Job}
    (hp : w.purpose = .job j) (hp' : w'.purpose = .job j) :
    RankUnit.Legal { u with bankOpen := u.bankOpen.set j.bank.val w'.stepOpen j.bank.isLt } r high (some w') now := by
  have hs : u.state = .service := h.service.mpr ⟨w, rfl, hr⟩
  refine { h with service := ⟨fun _ => ⟨w', rfl, hr'⟩, fun _ => hs⟩, closed := fun hc => by simp [hs] at hc, banks := ?_ }
  intro x hx _ b
  cases hx
  rw [getAfterSet, hp']
  by_cases hb : b = j.bank
  · simp [hb]
  · have hclosed : ¬ u.bankOpen.get b = true := by
      rw [h.banks w rfl hr b, hp]
      rintro ⟨k, hk, -, hbk⟩
      cases hk
      exact hb hbk
    rw [if_neg hb]
    refine ⟨fun ho => absurd ho hclosed, ?_⟩
    rintro ⟨k, hk, -, hbk⟩
    cases hk
    exact absurd hbk hb

/-! #### The refresh unit -/

/-- Another debt within its limit (R106). -/
theorem withDebt (h : u.Legal r high window now) {d : Nat} (hd : d ≤ u.params.debtLimit) :
    RankUnit.Legal { u with debt := d } r high window now :=
  { h with debt := hd }

/-- WINDOW_REFRESHES is one of its five values. -/
theorem windowRefreshes_pos (h : u.Legal r high window now) : 0 < u.params.windowRefreshes := by
  have := h.params.windowRefreshes
  omega

/-- The refresh count started again (R19, R105). -/
theorem recounted (h : u.Legal r high window now) : RankUnit.Legal { u with refreshCount := 0 } r high window now :=
  { h with count := h.windowRefreshes_pos }

/-- Other tables. -/
theorem withContexts (h : u.Legal r high window now) (c : Vector BankContext 16) :
    RankUnit.Legal { u with contexts := c } r high window now :=
  { h with }

/-- A REFRESH counted (R104). -/
theorem counted (h : u.Legal r high window now) : u.refreshCounted.Legal r high window now := by
  have hcount := h.count
  unfold RankUnit.refreshCounted
  split
  · exact h.recounted.withContexts _
  · exact { h with count := by show u.refreshCount + 1 < u.params.windowRefreshes; omega }

/-- A 1 ms boundary on the coverage timer (R148). -/
theorem ticked (h : u.Legal r high window now) : RankUnit.Legal { u with coverage := u.coverage.tick } r high window now := by
  refine { h with timer := ?_ }
  have ht := h.timer
  unfold RankUnit.TimerLegal at ht ⊢
  cases hc : u.coverage with
  | stopped =>
    rw [hc] at ht
    exact ht
  | running k =>
    rw [hc] at ht
    exact ⟨ht.1, Nat.min_le_left ..⟩

end Unit

end RankUnit.Legal

end Sys2Proof.Machine
end

section
/-! ### The invariant through the shared operations

Changes beside the ranks, the queue and the engine; changes of one rank; windows that start, step and end; counted refreshes.
The rows of the machine are put together from these. -/

namespace Sys2Proof.Machine

open Sys2Proof

/-! #### Changes beside ranks, queue and engine -/

/-- Another shell around the same ranks, queue and engine. -/
theorem State.Inv.reshell {s t : State} (h : s.Inv) (hranks : t.ranks = s.ranks) (hqueue : t.queue = s.queue)
    (hengine : t.engine = s.engine) (hslot : s.clock.slot ≤ t.clock.slot) (hhigh : t.link.resetHigh = s.link.resetHigh)
    (hheld : t.link.resetHigh = false → t.link.held = none) (hstale : t.bands.stalePeriod ≤ 255)
    (hdistance : 2 ≤ t.refusals.distance ∧ t.refusals.distance ≤ 15) (hrefusals : t.refusals.Legal) (hmgmt : t.mgmt.Legal) :
    t.Inv := by
  obtain ⟨⟨⟨hf, hj, hl⟩, hs⟩, hw⟩ := inv_iff.mp h
  obtain ⟨p, wire, c, l, ranks, bands, queue, engine, u, m⟩ := t
  obtain rfl : ranks = s.ranks := hranks
  obtain rfl : queue = s.queue := hqueue
  obtain rfl : engine = s.engine := hengine
  refine inv_iff.mpr ⟨⟨⟨⟨fun r => ?_, hheld, hstale, hdistance, hrefusals, hmgmt, hf.active⟩, ?_, hl⟩, hs⟩, hw⟩
  · have hr := (hf.ranks r).later hslot
    rwa [← hhigh] at hr
  · exact hj.congr (fun _ _ => rfl) (fun _ => .of_eq rfl) rfl fun _ h => h

namespace State.Inv

section Shell

variable {s : State}

/-- The parts of the invariant. -/
theorem steady (h : s.Inv) : s.Steady := (inv_iff.mp h).1

/-- The frame of a legal state. -/
theorem frame (h : s.Inv) : s.Frame := h.steady.sound.frame

/-- Other commands waiting or events to come. -/
theorem withQueues (h : s.Inv) (pending : List Instr) (wire : List BusEvent) :
    ({ s with pending := pending, wire := wire }).Inv :=
  h.reshell rfl rfl rfl (le_refl _) rfl h.frame.held h.frame.stalePeriod h.frame.distance h.frame.refusals h.frame.mgmt

/-- A slot passes. -/
theorem passSlot (h : s.Inv) : s.passSlot.Inv :=
  h.reshell rfl rfl rfl (Nat.le_succ _) rfl h.frame.held h.frame.stalePeriod h.frame.distance h.frame.refusals h.frame.mgmt

/-- Another held beat, with RESET/ high when there is one. -/
theorem setHeld (h : s.Inv) {f : Option FirstBeat} (hf : f = none ∨ s.link.resetHigh = true) : (s.setHeld f).Inv := by
  refine h.reshell rfl rfl rfl (le_refl _) rfl (fun hl => ?_) h.frame.stalePeriod h.frame.distance h.frame.refusals
    h.frame.mgmt
  rcases hf with rfl | hhigh
  · rfl
  · exact absurd (hl.symm.trans hhigh) nofun

/-- Another management port. -/
theorem withMgmt (h : s.Inv) {m : Mgmt} (hm : m.Legal) : ({ s with mgmt := m }).Inv :=
  h.reshell rfl rfl rfl (le_refl _) rfl h.frame.held h.frame.stalePeriod h.frame.distance h.frame.refusals hm

/-- Another refusal unit. -/
theorem withRefusals (h : s.Inv) {u : Refusals} (hu : u.Legal) (hd : 2 ≤ u.distance ∧ u.distance ≤ 15) :
    ({ s with refusals := u }).Inv :=
  h.reshell rfl rfl rfl (le_refl _) rfl h.frame.held h.frame.stalePeriod hd hu h.frame.mgmt

/-- Another threshold unit. -/
theorem withBands (h : s.Inv) {x : Bands} (hx : x.stalePeriod ≤ 255) : ({ s with bands := x }).Inv :=
  h.reshell rfl rfl rfl (le_refl _) rfl h.frame.held hx h.frame.distance h.frame.refusals h.frame.mgmt

/-- The pulse of a report stands behind every pulse scheduled (R134). -/
theorem lt_pulseSlot {l : List Nat} (h : l.Pairwise (· < ·)) {x : Nat} (hx : x ∈ l) (n d : Nat) : x < pulseSlot l n d := by
  rcases List.eq_nil_or_concat l with rfl | ⟨before, latest, rfl⟩
  · cases hx
  · rw [List.concat_eq_append] at h hx ⊢
    rw [pulseSlot_append_singleton]
    have hle : x ≤ latest := by
      rcases List.mem_append.mp hx with hx | hx
      · obtain ⟨-, -, hlt⟩ := List.pairwise_append.mp h
        exact (hlt x hx latest (List.mem_singleton_self _)).le
      · exact (List.mem_singleton.mp hx).le
    omega

/-- A refusal report (R132). -/
theorem report (h : s.Inv) (n : Nat) (x : Report) : (s.report n x).Inv := by
  have hu := h.frame.refusals
  refine h.withRefusals ⟨?_, ?_, ?_⟩ h.frame.distance
  · show (if decide (s.refusals.log.length < 8) = true then _ else _ : List LogRecord).length ≤ 8
    split
    · rename_i hroom
      rw [List.length_append, List.length_singleton]
      exact of_decide_eq_true hroom
    · exact hu.log
  · show (if decide (s.refusals.log.length < 8) = true then _ else min 255 (s.refusals.overflow + 1) : Nat) ≤ 255
    split
    · exact hu.overflow
    · exact Nat.min_le_left ..
  · refine List.pairwise_append.mpr ⟨hu.schedule, List.pairwise_singleton _ _, fun a ha b hb => ?_⟩
    rw [List.mem_singleton.mp hb]
    exact lt_pulseSlot hu.schedule ha _ _

end Shell

end State.Inv

/-! #### Moves of the tables -/

/-- A steady state with a legal window record is legal. -/
theorem State.Steady.inv {s t : State} (ht : t.Steady) (h : s.Inv) (hw : t.engine.window = s.engine.window) : t.Inv :=
  inv_iff.mpr ⟨ht, fun w hx => h.window w (hw ▸ hx)⟩

theorem State.Inv.evaluate {s : State} (h : s.Inv) (r : Rank) (b : Bank) (row : Nat) : (s.evaluate r b row).Inv :=
  (h.steady.evaluate r b row).inv h (evaluate_tableMoves s r b row).window

theorem State.Inv.countActivation {s : State} (h : s.Inv) (r : Rank) (b : Bank) {row : Nat} (hrow : row < (s.params r).rows) :
    (s.countActivation r b row).Inv :=
  (h.steady.countActivation r b hrow).inv h (countActivation_tableMoves s r b row).window

theorem State.Inv.restage {s : State} (h : s.Inv) : s.restage.Inv :=
  (h.steady.sound.restage).inv h (restage_moves s).window

/-! #### Changes of one rank -/

/-- One rank changed, and the engine with it; a window before or after is on that rank. -/
theorem State.Frame.withWindow {s : State} (h : s.Frame) {r : Rank} {f : RankUnit → RankUnit} {e : Engine}
    (hs : ∀ w, s.engine.window = some w → w.rank = r) (he : ∀ w, e.window = some w → w.rank = r)
    (hl : (f (s.rank r)).Legal r s.link.resetHigh e.window s.clock.slot)
    (ha : ∀ w j, e.window = some w → w.purpose = .job j → j.state = .running ∧ j.rank = r) :
    State.Frame { s.modRank r f with engine := e } := by
  refine ⟨fun q => ?_, h.held, h.stalePeriod, h.distance, h.refusals, h.mgmt, fun w j hw hp => ?_⟩
  · show RankUnit.Legal ((s.modRank r f).rank q) q s.link.resetHigh e.window s.clock.slot
    by_cases hq : q = r
    · subst hq
      rw [State.rank_modRank_same]
      exact hl
    · rw [State.rank_modRank_ne s f hq]
      exact (h.ranks q).other (fun w hw hr => hq (hr.symm.trans (hs w hw))) fun w hw hr => hq (hr.symm.trans (he w hw))
  · rw [he w hw]
    exact ha w j hw hp

/-- One rank changed. -/
theorem State.Frame.modRank {s : State} (h : s.Frame) {r : Rank} {f : RankUnit → RankUnit}
    (hl : (f (s.rank r)).Legal r s.link.resetHigh s.engine.window s.clock.slot) : (s.modRank r f).Frame := by
  refine ⟨fun q => ?_, h.held, h.stalePeriod, h.distance, h.refusals, h.mgmt, h.active⟩
  show RankUnit.Legal ((s.modRank r f).rank q) q s.link.resetHigh s.engine.window s.clock.slot
  by_cases hq : q = r
  · subst hq
    rw [State.rank_modRank_same]
    exact hl
  · rw [State.rank_modRank_ne s f hq]
    exact h.ranks q

section ModRank

variable {s : State} {r : Rank} {f : RankUnit → RankUnit}

/-- Tables kept by a change of one rank. -/
theorem context_modRank (hc : (f (s.rank r)).contexts = (s.rank r).contexts) (q : Rank) (b : Bank) :
    (s.modRank r f).context q b = s.context q b := by
  rw [State.context, State.context, State.rank_modRank]
  split
  · rename_i hq
    rw [hc, hq]
  · rfl

/-- Parameters kept by a change of one rank. -/
theorem params_modRank (hp : (f (s.rank r)).params = (s.rank r).params) (q : Rank) : (s.modRank r f).params q = s.params q := by
  rw [State.params, State.params, State.rank_modRank]
  split
  · rename_i hq
    rw [hp, hq]
  · rfl

/-- A change of one rank that keeps its tables and parameters keeps what is said of the held jobs. -/
theorem State.Jobs.modRank {held : List Job} (h : s.Jobs held) (hc : (f (s.rank r)).contexts = (s.rank r).contexts)
    (hp : (f (s.rank r)).params = (s.rank r).params) : (s.modRank r f).Jobs held :=
  h.congr (context_modRank hc) (fun q => .of_eq (params_modRank hp q)) rfl fun _ h => h

/-- A change of one rank that keeps its tables and parameters keeps a sound state. -/
theorem State.Sound.modRank (h : s.Sound) (hc : (f (s.rank r)).contexts = (s.rank r).contexts)
    (hp : (f (s.rank r)).params = (s.rank r).params)
    (hl : (f (s.rank r)).Legal r s.link.resetHigh s.engine.window s.clock.slot) : (s.modRank r f).Sound :=
  ⟨h.frame.modRank hl, h.jobs.modRank hc hp, h.listed⟩

/-- A change of one rank that keeps its state keeps the staged slot. -/
theorem State.StagedLegal.modRank (h : s.StagedLegal) (hs : (f (s.rank r)).state = (s.rank r).state) :
    (s.modRank r f).StagedLegal := by
  have he : (s.modRank r f).eligible = s.eligible := by
    funext j
    rw [State.eligible, State.eligible, State.rank_modRank]
    split
    · rename_i hq
      rw [hs, hq]
    · rfl
  unfold State.StagedLegal at h ⊢
  rwa [he]

/-- A change of one rank that keeps its state, tables and parameters keeps a legal state. -/
theorem State.Inv.modRank (h : s.Inv) (hs : (f (s.rank r)).state = (s.rank r).state)
    (hc : (f (s.rank r)).contexts = (s.rank r).contexts) (hp : (f (s.rank r)).params = (s.rank r).params)
    (hl : (f (s.rank r)).Legal r s.link.resetHigh s.engine.window s.clock.slot) : (s.modRank r f).Inv :=
  State.Steady.inv ⟨h.steady.sound.modRank hc hp hl, h.staged.modRank hs⟩ h rfl

end ModRank

/-! #### The refresh unit (R19, R104) -/

/-- A vector of 16 mapped, place by place. -/
theorem get_map_vector {α β : Type} (v : Vector α 16) (f : α → β) (b : Bank) : (v.map f).get b = f (v.get b) := by
  simp [Vector.get]

/-- Tables with the same marks and no new row, and the queue as it is. -/
theorem State.Jobs.retable {s t : State} {held : List Job} (h : s.Jobs held) (hlegal : t.TablesLegal)
    (hrows : ∀ r b, ∀ e ∈ (t.context r b).entries, ∃ x ∈ (s.context r b).entries, x.row = e.row)
    (hmarks : ∀ r b q, (t.context r b).MarksRow q ↔ (s.context r b).MarksRow q) (hp : ∀ r, t.params r = s.params r)
    (hq : t.queue = s.queue) : t.Jobs held where
  tables := hlegal
  entries := fun r b e he => by
    obtain ⟨x, hx, hrow⟩ := hrows r b e he
    rw [hp, ← hrow]
    exact h.entries r b x hx
  size := h.size
  apart := h.apart
  fits := fun j hj => by
    rw [hp]
    exact h.fits j hj
  marks := fun r b row => (h.marks r b row).trans (hmarks r b row).symm
  untracked := fun r ht b => by
    rw [hp] at ht
    have hnil := h.untracked r ht b
    refine List.eq_nil_iff_forall_not_mem.mpr fun e he => ?_
    obtain ⟨x, hx, -⟩ := hrows r b e he
    rw [hnil] at hx
    cases hx
  full := by
    rw [hq]
    exact h.full
  balance := by
    rw [hq]
    exact h.balance

/-- The tables of a rank halved (R19). -/
theorem State.Jobs.halve {s : State} {held : List Job} (h : s.Jobs held) {r : Rank} {f : RankUnit → RankUnit}
    (hc : (f (s.rank r)).contexts = (s.rank r).contexts.map BankContext.halve)
    (hp : (f (s.rank r)).params = (s.rank r).params) : (s.modRank r f).Jobs held := by
  have hcontext (q : Rank) (b : Bank) :
      (s.modRank r f).context q b = if q = r then (s.context q b).halve else s.context q b := by
    rw [State.context, State.rank_modRank]
    split
    · rename_i hq
      rw [hc, get_map_vector, hq]
      rfl
    · rfl
  refine h.retable (fun q b => ?_) (fun q b e he => ?_) (fun q b row => ?_) (params_modRank hp) rfl
  · rw [hcontext]
    split
    · exact halve_legal (h.tables q b)
    · exact h.tables q b
  · rw [hcontext] at he
    split at he
    · exact row_of_mem_halve he
    · exact ⟨e, he, rfl⟩
  · rw [hcontext]
    split
    · exact halve_marksRow row
    · exact Iff.rfl

/-- What a counted REFRESH keeps of a rank besides its count and its tables. -/
theorem refreshCounted_spec (u : RankUnit) : u.refreshCounted.state = u.state ∧ u.refreshCounted.params = u.params ∧
    (u.refreshCounted.contexts = u.contexts ∨ u.refreshCounted.contexts = u.contexts.map BankContext.halve) := by
  unfold RankUnit.refreshCounted
  split
  · exact ⟨rfl, rfl, .inr rfl⟩
  · exact ⟨rfl, rfl, .inl rfl⟩

/-- A counted REFRESH keeps a steady state. -/
theorem State.Steady.countRefresh {s : State} (h : s.Steady) (r : Rank) : (s.countRefresh r).Steady := by
  obtain ⟨hs, hp, hc⟩ := refreshCounted_spec (s.rank r)
  rw [countRefresh_eq]
  refine ⟨⟨h.sound.frame.modRank (h.sound.frame.ranks r).counted, ?_, h.sound.listed⟩, h.staged.modRank hs⟩
  rcases hc with hc | hc
  · exact h.sound.jobs.modRank hc hp
  · exact h.sound.jobs.halve hc hp

/-- A tracking-window close keeps a legal state. -/
theorem State.Inv.closeTracking {s : State} (h : s.Inv) (r : Rank) : (s.closeTracking r).Inv :=
  State.Steady.inv ⟨⟨h.frame.modRank ((h.frame.ranks r).recounted.withContexts _), h.steady.sound.jobs.halve rfl rfl,
    h.steady.sound.listed⟩, h.staged.modRank rfl⟩ h rfl

/-! #### The jobs of a rank leave (R21, R71, R72) -/

/-- The held jobs of the other rank, when no window is on this one. -/
theorem heldJobs_filter {s : State} (h : s.Frame) {r : Rank} (hw : ∀ w, s.engine.window = some w → w.rank ≠ r) :
    s.heldJobs.filter (fun j => j.rank != r) = s.queue.list.filter (fun j => j.rank != r) ++ s.active.toList := by
  rw [State.heldJobs, List.filter_append]
  congr 1
  refine List.filter_eq_self.mpr fun j hj => ?_
  have hj := Option.mem_toList.mp hj
  unfold State.active at hj
  split at hj
  · rename_i w hw'
    split at hj
    · rename_i hp
      cases hj
      obtain ⟨-, hrank⟩ := h.active w j hw' hp
      simpa [hrank] using hw w hw'
    · cases hj
    · cases hj
  · cases hj

/-- The jobs of a rank without a window leave the list and its tables are cleared. -/
theorem State.Sound.queueWithout {s t : State} (h : s.Sound) {r : Rank} (hw : ∀ w, s.engine.window = some w → w.rank ≠ r)
    {stats : Stats} (hb : ∀ n m, s.queue.stats.Balance (n + m) → BitVec.ofNat 32 m = s.listedOf r → stats.Balance n)
    (hq : t.queue = s.queueWithout r stats) (he : t.engine.window = s.engine.window)
    (hr : ∀ b, t.context r b = BankContext.empty) (hc : ∀ q, q ≠ r → ∀ b, t.context q b = s.context q b)
    (hp : ∀ q, q ≠ r → t.params q = s.params q) (hf : t.Frame) : t.Sound := by
  have hheld : s.heldJobs.filter (fun j => j.rank != r) = t.heldJobs := by
    rw [heldJobs_filter h.frame hw, State.heldJobs, active_congr he, hq]
    rfl
  have hcount : t.heldCount = (s.heldJobs.filter fun j => j.rank != r).length := by rw [heldCount_eq_length, hheld]
  refine ⟨hf, ?_, ?_⟩
  · rw [← hheld]
    refine h.jobs.clearRank r hr hc hp (fun hfull => ?_) ?_
    · rw [← hcount]
      have hsize : t.heldCount ≤ 16 := by
        rw [hcount]
        exact (List.length_filter_le _ _).trans h.jobs.size
      rw [hq] at hfull
      obtain ⟨-, hlen⟩ := Bool.and_eq_true_iff.mp hfull
      have hlen : 16 ≤ (s.queue.list.filter fun j => j.rank != r).length + (if s.active.isSome then 1 else 0) :=
        of_decide_eq_true hlen
      have hcount' : t.heldCount = (s.queue.list.filter fun j => j.rank != r).length + (if s.active.isSome then 1 else 0) := by
        rw [State.heldCount, active_congr he, hq]
        rfl
      omega
    · rw [hq]
      refine hb _ (s.queue.list.countP fun j => j.rank == r) ?_ rfl
      have hlen : (s.heldJobs.filter fun j => j.rank != r).length + s.queue.list.countP (fun j => j.rank == r) =
          s.heldJobs.length := by
        have hsplit := List.length_eq_length_filter_add (l := s.queue.list) fun j => j.rank == r
        rw [heldJobs_filter h.frame hw, State.heldJobs, List.length_append, List.length_append,
          List.countP_eq_length_filter, hsplit]
        show (s.queue.list.filter fun j => !(j.rank == r)).length + _ + _ = _
        omega
      rw [hlen]
      exact h.jobs.balance
  · rw [hq]
    exact h.listed.sublist List.filter_sublist

end Sys2Proof.Machine
end

section
/-! ### The invariant through windows: their start, their steps and their end

A window that starts has its record sized by R83; with its first step begun, or with none to make, the record is legal. -/

namespace Sys2Proof.Machine

open Sys2Proof

/-! #### Window records (R80, R83, R84) -/

/-- What the record of a window keeps from its start on: its sizes, and no more steps than are to be made. -/
structure Window.Sized (w : Window) : Prop where
  capacity : 1 ≤ w.capacity ∧ w.capacity ≤ 4
  length : 10 ≤ w.length ∧ w.length ≤ 1000
  step : 4 ≤ w.stepTime ∧ w.stepTime ≤ 100
  fits : w.stepTime * w.capacity ≤ w.length
  steps : w.stepsDone ≤ w.steps

theorem Window.Legal.sized {w : Window} (h : w.Legal) : w.Sized :=
  ⟨h.capacity, h.length, h.step, h.fits, h.steps⟩

/-- A step begun on a record that has one to make. -/
theorem Window.Sized.opened {w : Window} (h : w.Sized) (hlt : w.stepsDone < w.steps) :
    Window.Legal { w with stepOpen := true } :=
  ⟨h.capacity, h.length, h.step, h.fits, h.steps, fun _ => hlt, fun _ _ => rfl⟩

/-- A step in progress completed. -/
theorem Window.Legal.closed {w : Window} (h : w.Legal) (ho : w.stepOpen = true) :
    Window.Legal { w with stepOpen := false, stepsDone := w.stepsDone + 1 } :=
  ⟨h.capacity, h.length, h.step, h.fits, h.opened ho, nofun, nofun⟩

/-- A record with no step to make. -/
theorem Window.Sized.legal {w : Window} (h : w.Sized) (ho : w.stepOpen = false) (hs : w.steps = 0) : w.Legal :=
  ⟨h.capacity, h.length, h.step, h.fits, h.steps, fun hopen => absurd (ho.symm.trans hopen) nofun,
    fun _ hpos => absurd (hs ▸ hpos) (Nat.lt_irrefl _)⟩

/-- A window of a length that R160 allows starts with a sized record (R83). -/
theorem freshWindow_sized {s : State} {r : Rank} (hp : (s.params r).Legal) {length : Nat} (hl : 10 ≤ length ∧ length ≤ 1000)
    (hle : (s.params r).stepTime ≤ length) (kind : WindowKind) (purpose : Purpose) :
    (s.freshWindow r kind purpose length).Sized := by
  have hpos : 0 < (s.params r).stepTime := Nat.lt_of_lt_of_le (by decide) hp.step.1
  have hone : 1 ≤ length / (s.params r).stepTime := Nat.div_pos hle hpos
  refine ⟨⟨Nat.le_min.mpr ⟨by decide, hone⟩, Nat.min_le_left ..⟩, hl, hp.step, ?_, Nat.zero_le _⟩
  calc (s.params r).stepTime * min 4 (length / (s.params r).stepTime)
      ≤ (s.params r).stepTime * (length / (s.params r).stepTime) := Nat.mul_le_mul_left _ (Nat.min_le_right ..)
    _ ≤ length := Nat.mul_div_le ..

/-- The next victim of a window is one of its job's, with a step still to make. -/
theorem nextVictim_spec {w : Window} {j : Job} {v : Nat} (h : w.nextVictim = some (j, v)) :
    w.purpose = .job j ∧ w.stepsDone < w.steps ∧ v ∈ j.victims.getD [] := by
  cases hp : w.purpose with
  | vacant => simp only [Window.nextVictim, hp] at h; cases h
  | repay => simp only [Window.nextVictim, hp] at h; cases h
  | job k =>
    by_cases hlt : w.stepsDone < w.steps
    · rw [nextVictim_of_job hp hlt] at h
      obtain ⟨x, hx, hk⟩ := Option.map_eq_some_iff.mp h
      cases hk
      exact ⟨rfl, hlt, List.mem_of_getElem? hx⟩
    · rw [nextVictim_of_spent (Nat.not_lt.mp hlt)] at h
      cases h

/-- A legal job with its victim list has a victim still to be served. -/
theorem exists_nextVictim {j : Job} (h : j.Legal) (hv : j.victims.isSome = true) :
    ∃ l v, j.victims = some l ∧ l[j.served]? = some v := by
  obtain ⟨l, hl⟩ := Option.isSome_iff_exists.mp hv
  obtain ⟨-, hlt, -⟩ := h.of_victims hl
  exact ⟨l, l[j.served], hl, List.getElem?_eq_getElem hlt⟩

/-! #### Steps -/

/-- The active slot of a state whose window carries a job. -/
theorem active_of_job {s : State} {w : Window} {j : Job} (hw : s.engine.window = some w) (hp : w.purpose = .job j) :
    s.active = some j := by
  simp only [State.active, hw, hp]

/-- What a step changes of the window's rank: the bank of its job, and the engine command on the port. -/
def RankUnit.stepping (r : Rank) (j : Job) (isOpen : Bool) (m : Nat) (op : BitVec 4) (operand : BitVec 17) (u : RankUnit) :
    RankUnit :=
  { u with
    bankOpen := u.bankOpen.set j.bank.val isOpen j.bank.isLt
    port := u.port ++ engineBeats (u.engineSlot m) op r j.bank operand }

/-- The window's record and its rank changed together: nothing else of a steady state depends on them. -/
theorem State.Steady.step {s : State} (h : s.Steady) {w w' : Window} {j : Job} (hw : s.engine.window = some w)
    (hp : w.purpose = .job j) (hr' : w'.rank = w.rank) (hp' : w'.purpose = .job j) (m : Nat) (op : BitVec 4)
    (operand : BitVec 17) :
    State.Steady { s.modRank w.rank (RankUnit.stepping w.rank j w'.stepOpen m op operand) with
      engine := { s.engine with window := some w' } } := by
  have hf := h.sound.frame
  have hl := hf.ranks w.rank
  rw [hw] at hl
  have hstaged := h.staged.modRank (r := w.rank) (f := RankUnit.stepping w.rank j w'.stepOpen m op operand) rfl
  refine ⟨⟨hf.withWindow (fun x hx => ?_) (fun x hx => ?_) ((hl.driving m op w.rank j.bank operand).stepped rfl hr' hp hp')
    fun x k hx hk => ?_, ?_, h.sound.listed⟩, hstaged⟩
  · cases hw.symm.trans hx
    rfl
  · cases hx
    exact hr'
  · cases hx
    cases hp'.symm.trans hk
    exact hf.active w j hw hp
  · have hjobs := h.sound.jobs
    rw [State.heldJobs, active_of_job hw hp] at hjobs
    have hmoved := hjobs.modRank (r := w.rank) (f := RankUnit.stepping w.rank j w'.stepOpen m op operand) rfl rfl
    rw [State.heldJobs, active_of_job rfl hp']
    exact hmoved.congr (fun _ _ => rfl) (fun _ => .of_eq rfl) rfl fun _ h => h

/-- A step that begins on a steady state with a sized record leaves a legal one (R84 a, R85). -/
theorem State.Steady.openStep {s : State} (h : s.Steady) {w : Window} {j : Job} {v : Nat} (hw : s.engine.window = some w)
    (hsized : w.Sized) (hv : w.nextVictim = some (j, v)) (m : Nat) : (s.openStep m w j v).Inv := by
  obtain ⟨hp, hlt, hmem⟩ := nextVictim_spec hv
  have hrank : j.rank = w.rank := (h.sound.frame.active w j hw hp).2
  have hrow : v < (s.params w.rank).rows := by
    have hfits := h.sound.jobs.fits j (List.mem_append_right _ (by simp [active_of_job hw hp]))
    rw [hrank] at hfits
    exact hfits.victims v hmem
  rw [openStep_eq]
  refine State.Inv.countActivation (inv_iff.mpr ⟨?_, fun x hx => ?_⟩) _ _ ?_
  · exact h.step hw hp (w' := { w with stepOpen := true }) rfl hp m opOpen (BitVec.ofNat 17 v)
  · cases hx
    exact hsized.opened hlt
  · have hparams := params_modRank (s := s) (r := w.rank)
      (f := RankUnit.stepping w.rank j true m opOpen (BitVec.ofNat 17 v)) rfl w.rank
    exact hparams ▸ hrow

/-- A step that ends (R84 b). -/
theorem State.Inv.closeStep {s : State} (h : s.Inv) {w : Window} {j : Job} (hw : s.engine.window = some w)
    (hp : w.purpose = .job j) (ho : w.stepOpen = true) (m : Nat) : (s.closeStep m w j).Inv := by
  rw [closeStep_eq]
  refine inv_iff.mpr ⟨?_, fun x hx => ?_⟩
  · exact h.steady.step hw hp (w' := { w with stepOpen := false, stepsDone := w.stepsDone + 1 }) rfl hp m opClose 0
  · cases hx
    exact (h.window w hw).closed ho

/-- The time base comes to an instant. -/
theorem State.Inv.reach {s : State} (h : s.Inv) (n : Nat) : (s.reach n).Inv :=
  h.reshell rfl rfl rfl (le_refl _) rfl h.frame.held h.frame.stalePeriod h.frame.distance h.frame.refusals h.frame.mgmt

/-! #### Windows that start -/

/-- The job a purpose carries into the active slot. -/
def Purpose.carried : Purpose → List Job
  | .job j => [j]
  | .vacant => []
  | .repay => []

/-- The job in the active slot is the one its window carries. -/
theorem active_toList {s : State} {w : Window} (hw : s.engine.window = some w) : s.active.toList = w.purpose.carried := by
  simp only [State.active, hw]
  cases w.purpose <;> rfl

/-- A window starts on an AWAKE rank with its banks CLOSED, with the job that a take has left besides the list (R80 to R82). -/
theorem startWindow_sound {t : State} (hf : t.Frame) (hw : t.engine.window = none) (hl : Listed t.queue.list) {r : Rank}
    {purpose : Purpose} (hj : t.Jobs (purpose.carried ++ t.queue.list)) (ha : (t.rank r).state = .awake)
    (hc : ∀ k, t.isOpen r k = false) (hp : ∀ j, purpose = .job j → j.state = .running ∧ j.rank = r) (kind : WindowKind)
    (length : Nat) : (t.startWindow r kind purpose length).Sound := by
  have hlegal := hf.ranks r
  refine ⟨hf.withWindow (fun x hx => ?_) (fun x hx => ?_) (hlegal.started ha hc rfl rfl) fun x k hx hk => ?_, ?_, hl⟩
  · rw [hw] at hx
    cases hx
  · cases hx
    rfl
  · cases hx
    exact hp k hk
  · have hheld : (t.startWindow r kind purpose length).heldJobs = t.queue.list ++ purpose.carried := by
      rw [State.heldJobs, active_toList rfl]
      rfl
    have hmoved := hj.modRank (r := r) (f := fun u => { u with state := .service }) rfl rfl
    have hstarted : (t.startWindow r kind purpose length).Jobs (purpose.carried ++ t.queue.list) :=
      hmoved.congr (fun _ _ => rfl) (fun _ => .of_eq rfl) rfl fun _ h => h
    rw [hheld]
    exact hstarted.perm List.perm_append_comm

section Take

variable {s t : State} {r : Rank} {urgentOnly : Bool}

/-- What a take leaves an AWAKE rank with its banks CLOSED. -/
theorem take_keeps (ht : s.take r urgentOnly = (t, x)) (ha : (s.rank r).state = .awake) (hc : ∀ k, s.isOpen r k = false) :
    (t.rank r).state = .awake ∧ ∀ k, t.isOpen r k = false :=
  ⟨((take_tableMoves ht).state r).trans ha, fun k => ((take_tableMoves ht).isOpen r k).trans (hc k)⟩

/-- A state left by a take that finds no job. -/
theorem sound_of_take_none (h : s.Inv) (hw : s.engine.window = none) (ht : s.take r urgentOnly = (t, none)) :
    t.Sound ∧ t.engine.window = none := by
  obtain ⟨hf, hwindow, hl, hj, -⟩ := take_spec h.steady.sound hw ht
  have hactive : t.active = none := by simp only [State.active, hwindow]
  refine ⟨⟨hf, ?_, hl⟩, hwindow⟩
  rw [State.heldJobs, hactive]
  simpa using hj

/-- A JOB window started after a take, re-evaluated: steady, with its first step to make. -/
theorem steady_of_take_some {j : Job} (h : s.Inv) (hw : s.engine.window = none) (ht : s.take r urgentOnly = (t, some j))
    (ha : (s.rank r).state = .awake) (hc : ∀ k, s.isOpen r k = false) (kind : WindowKind) {length : Nat}
    (hlen : 10 ≤ length ∧ length ≤ 1000) (hle : (s.params r).stepTime ≤ length) :
    (t.startWindow r kind (.job j) length).restage.Steady ∧
      (t.startWindow r kind (.job j) length).engine.window = some (s.freshWindow r kind (.job j) length) ∧
      (s.freshWindow r kind (.job j) length).Sized ∧
      ∃ v, (s.freshWindow r kind (.job j) length).nextVictim = some (j, v) := by
  obtain ⟨hf, hwindow, hl, hj, hspec⟩ := take_spec h.steady.sound hw ht
  obtain ⟨hrunning, hrank, hvictims⟩ := hspec j rfl
  obtain ⟨hawake, hclosed⟩ := take_keeps ht ha hc
  have hparams := h.parameters.params r
  obtain ⟨l, v, hl', hv⟩ := exists_nextVictim (hj.fits j (List.mem_cons_self ..)).legal hvictims
  refine ⟨State.Sound.restage (startWindow_sound (purpose := .job j) hf hwindow hl hj hawake hclosed (fun k hk => ?_) kind length), ?_,
    freshWindow_sized hparams hlen hle kind _, v, nextVictim_freshWindow hl' hv (by have := hparams.step.1; omega) hle⟩
  · cases hk
    exact ⟨hrunning, hrank⟩
  · rw [startWindow_of_take ht]

/-- A window without a job started after a take, re-evaluated. -/
theorem inv_of_take_none {purpose : Purpose} (h : s.Inv) (hw : s.engine.window = none)
    (ht : s.take r urgentOnly = (t, none)) (ha : (s.rank r).state = .awake) (hc : ∀ k, s.isOpen r k = false)
    (hp : purpose = .vacant ∨ purpose = .repay) (kind : WindowKind) {length : Nat} (hlen : 10 ≤ length ∧ length ≤ 1000)
    (hle : (s.params r).stepTime ≤ length) : (t.startWindow r kind purpose length).restage.Inv := by
  obtain ⟨hf, hwindow, hl, hj, -⟩ := take_spec h.steady.sound hw ht
  obtain ⟨hawake, hclosed⟩ := take_keeps ht ha hc
  have hcarried : purpose.carried = [] := by rcases hp with rfl | rfl <;> rfl
  have hjobs : t.Jobs (purpose.carried ++ t.queue.list) := by
    rw [hcarried]
    exact hj
  refine inv_iff.mpr ⟨State.Sound.restage (startWindow_sound hf hwindow hl hjobs hawake hclosed (fun k hk => ?_) kind length),
    fun x hx => ?_⟩
  · rcases hp with rfl | rfl <;> cases hk
  · rw [(restage_moves _).window, startWindow_of_take ht] at hx
    cases hx
    exact (freshWindow_sized (h.parameters.params r) hlen hle kind purpose).legal rfl (steps_of_jobless hp)

end Take

/-! #### Windows that end (R64, R70, R89, R107) -/

/-- Without a window the held jobs are those of the list. -/
theorem heldJobs_of_idle {t : State} (hw : t.engine.window = none) : t.heldJobs = t.queue.list := by
  have hactive : t.active = none := by simp only [State.active, hw]
  rw [State.heldJobs, hactive]
  exact List.append_nil _

/-- A frame without a window is sound with what is said of the listed jobs. -/
theorem State.Sound.of_idle {t : State} (hf : t.Frame) (hw : t.engine.window = none) (hj : t.Jobs t.queue.list)
    (hl : Listed t.queue.list) : t.Sound :=
  ⟨hf, (heldJobs_of_idle hw).symm ▸ hj, hl⟩

/-- The frame of a state whose window has ended. -/
theorem State.Inv.endWindow_frame {s : State} (h : s.Inv) {w : Window} (hw : s.engine.window = some w) (o : Outcome) :
    ((s.endWindow w).pushOutcome o).Frame := by
  have hl := (h.reach w.finish).frame.ranks w.rank
  rw [State.reach_engine, hw] at hl
  refine (h.reach w.finish).frame.withWindow (r := w.rank) (f := fun u => { u with state := .awake })
    (e := ((s.endWindow w).pushOutcome o).engine) (fun x hx => ?_) nofun (hl.ended rfl) nofun
  cases hw.symm.trans hx
  rfl

/-- What is said of the held jobs when a window has ended: its job is held besides the list. -/
theorem State.Inv.endWindow_jobs {s : State} (h : s.Inv) {w : Window} (hw : s.engine.window = some w) (o : Outcome) :
    ((s.endWindow w).pushOutcome o).Jobs (w.purpose.carried ++ s.queue.list) := by
  have hj := (h.reach w.finish).steady.sound.jobs
  rw [State.heldJobs, active_toList (s := s.reach w.finish) hw] at hj
  have hmoved := (hj.perm List.perm_append_comm).modRank (r := w.rank) (f := fun u => { u with state := .awake }) rfl rfl
  exact hmoved.congr (fun _ _ => rfl) (fun _ => .of_eq rfl) rfl fun _ h => h

/-- A retirement DONE is a move of the tables. -/
theorem retireDone_moves (s : State) (j : Job) : TableMoves s (s.retireDone j) := by
  unfold State.retireDone State.resetEntry
  exact .trans (setQueue_moves s _) (modContext_moves _ _ _ _)

/-- The job of a window that has ended retires DONE (R17, R59, R70). -/
theorem retireDone_sound {t : State} {j : Job} (hf : t.Frame) (hw : t.engine.window = none)
    (hj : t.Jobs (j :: t.queue.list)) (hl : Listed t.queue.list) : (t.retireDone j).Sound := by
  refine .of_idle ((retireDone_moves t j).frame hf) hw ?_ hl
  refine hj.retire (fun _ _ => rfl) (retireDone_moves t j).params (fun hfull => ?_) fun n hb => ?_
  · have hsize : t.queue.list.length + 1 ≤ 16 := hj.size
    have hcount : t.heldCount = t.queue.list.length := by rw [heldCount_eq_length, heldJobs_of_idle hw]
    obtain ⟨-, hge⟩ := Bool.and_eq_true_iff.mp hfull
    have hge : 16 ≤ t.heldCount := of_decide_eq_true hge
    omega
  · unfold Stats.Balance at hb ⊢
    show t.queue.stats.enqueued = (t.queue.stats.done + 1) + t.queue.stats.empty + t.queue.stats.covered +
      t.queue.stats.discarded + BitVec.ofNat 32 n
    rw [hb, show BitVec.ofNat 32 (n + 1) = BitVec.ofNat 32 n + 1 from BitVec.ofNat_add ..]
    ac_rfl

/-- A job returned by a window keeps to its rules while a victim is left (R64). -/
theorem returned_fits {j : Job} {p : RankParams} (h : j.Fits p) {n : Nat} (hlt : j.served + n < j.listed) :
    (j.returned n).Fits p := by
  cases hv : j.victims with
  | none => simp [Job.listed, hv] at hlt
  | some l =>
    obtain ⟨hlen, -, hnodup, hrow⟩ := h.legal.of_victims hv
    rw [Job.listed, hv] at hlt
    refine ⟨?_, h.row, h.victims, h.radius⟩
    have hvictims : (j.returned n).victims = some l := hv
    unfold Job.Legal
    rw [hvictims]
    exact ⟨hlen, hlt, hnodup, hrow⟩

/-- The job of a window that has ended returns to the head of the list (R64). -/
theorem requeue_sound {t : State} {j : Job} (hf : t.Frame) (hw : t.engine.window = none) (hj : t.Jobs (j :: t.queue.list))
    (hl : Listed t.queue.list) {n : Nat} (hlt : j.served + n < j.listed) : (t.requeue j n).Sound := by
  have hreturned : t.Jobs (j.returned n :: t.queue.list) :=
    hj.replace rfl (returned_fits (hj.fits j (List.mem_cons_self ..)) hlt)
  exact .of_idle ((setQueue_moves t _).frame hf) hw (hreturned.congr (fun _ _ => rfl) (fun _ => .of_eq rfl) rfl fun _ h => h)
    (hl.cons_urgent rfl nofun)

/-- Other counters of the statistics than those that balance. -/
theorem sound_setStats {t : State} (hf : t.Frame) (hw : t.engine.window = none) (hj : t.Jobs t.queue.list)
    (hl : Listed t.queue.list) {stats : Stats} (hb : ∀ n, t.queue.stats.Balance n → stats.Balance n) :
    State.Sound { t with queue := { t.queue with stats := stats } } :=
  .of_idle ((setQueue_moves t _).frame hf) hw (hj.congr (fun _ _ => rfl) (fun _ => .of_eq rfl) rfl hb) hl

/-- A legal window serves at most the victims its job has left (R84). -/
theorem served_le_listed {w : Window} {j : Job} (h : w.Legal) (hp : w.purpose = .job j) (hj : j.Legal) :
    j.served + w.stepsDone ≤ j.listed := by
  have hsteps := h.steps
  rw [steps_of_job hp] at hsteps
  have hserved : j.served ≤ j.listed := by
    cases hv : j.victims with
    | none => exact (hj.served_eq_zero hv).le.trans (Nat.zero_le _)
    | some l =>
      obtain ⟨-, hlt, -⟩ := hj.of_victims hv
      rw [Job.listed, hv]
      exact hlt.le
  have hlisted : (j.victims.getD []).length = j.listed := rfl
  omega

/-- What a window that has ended settles leaves a sound state (R64, R70, R89, R107). -/
theorem State.Inv.settled {s : State} (h : s.Inv) {w : Window} (hw : s.engine.window = some w) :
    (((s.endWindow w).pushOutcome w.outcome).settleWindow w).Sound := by
  have hf := h.endWindow_frame hw w.outcome
  have hj := h.endWindow_jobs hw w.outcome
  have hl := h.steady.sound.listed
  cases hp : w.purpose with
  | job j =>
    rw [hp] at hj
    by_cases hdone : j.served + w.stepsDone = j.listed
    · rw [settleWindow_of_done hp hdone]
      exact retireDone_sound hf rfl hj hl
    · rw [settleWindow_of_partial hp hdone]
      have hle := served_le_listed (h.window w hw) hp (hj.fits j (List.mem_cons_self ..)).legal
      exact requeue_sound hf rfl hj hl (by omega)
  | vacant =>
    rw [hp] at hj
    simp only [State.settleWindow, hp]
    exact sound_setStats hf rfl hj hl fun _ h => h
  | repay =>
    rw [hp] at hj
    simp only [State.settleWindow, hp]
    have hs := sound_setStats (stats := { s.queue.stats with repaid := s.queue.stats.repaid + 1 }) hf rfl hj hl fun _ h => h
    have hdebt := (hs.frame.ranks w.rank).debt
    exact hs.modRank rfl rfl ((hs.frame.ranks w.rank).withDebt ((Nat.sub_le _ _).trans hdebt))

/-- Settling a window that has ended starts no other. -/
theorem settleWindow_window (s : State) (w : Window) : (s.settleWindow w).engine.window = s.engine.window := by
  unfold State.settleWindow
  split
  · split <;> rfl
  · rfl
  · rfl

/-- The end of a window keeps a legal state (R89). -/
theorem State.Inv.expired {s : State} (h : s.Inv) {w : Window} (hw : s.engine.window = some w) :
    (((s.endWindow w).pushOutcome w.outcome).settleWindow w).restage.Inv := by
  refine inv_iff.mpr ⟨(h.settled hw).restage, fun x hx => ?_⟩
  rw [(restage_moves _).window, settleWindow_window] at hx
  cases hx

end Sys2Proof.Machine
end

section
/-! ### The invariant through the command link

What acceptance says of the part in a legal state, then each accepted command, then the beats (R113 to R123). -/

namespace Sys2Proof.Machine

open Sys2Proof

/-! #### What acceptance says (R119, R121) -/

/-- What the checks leave of a rank whose command is accepted. -/
structure State.Accepts (s : State) (f : FirstBeat) : Prop where
  awake : f.opcode ≠ opSleepExit → (s.rank f.rank).state = .awake
  asleep : f.opcode = opSleepExit → (s.rank f.rank).state = .asleep
  closed : f.opcode = opRefresh ∨ f.opcode = opSleepEnter ∨ f.opcode = opServiceGrant → ∀ k, s.isOpen f.rank k = false
  idle : f.opcode = opServiceGrant → s.engine.window = none

/-- No line of the acceptance table refuses a command that passes. -/
theorem cond_of_passes {s : State} {f : FirstBeat} {b : SecondBeat} (h : s.firstFailure f b = none) {cond : Bool}
    {reason : Reason} (hl : (cond, reason) ∈ s.acceptanceTable f b) : cond = false := by
  rw [State.firstFailure, Option.map_eq_none_iff, List.find?_eq_none] at h
  exact Bool.eq_false_iff.mpr (h _ hl)

/-- The number of an opcode decides it. -/
theorem opcode_eq_iff {op k : BitVec 4} : op = k ↔ op.toNat = k.toNat :=
  BitVec.toNat_inj.symm

/-- A command that passes the checks in a legal state with RESET/ high. -/
theorem accepts_of_passes {s : State} (h : s.Inv) (hh : s.link.resetHigh = true) {f : FirstBeat} {b : SecondBeat}
    (hp : s.firstFailure f b = none) : s.Accepts f := by
  have hsleep := cond_of_passes hp (cond := decide ((s.rank f.rank).state = .asleep ∧ f.opcode.toNat ≠ 8))
    (reason := .asleep) (by simp [State.acceptanceTable])
  have hwake := cond_of_passes hp (cond := decide ((s.rank f.rank).state = .awake ∧ f.opcode.toNat = 8))
    (reason := .notAsleep) (by simp [State.acceptanceTable])
  have hwindow := cond_of_passes hp (cond := decide ((s.rank f.rank).state = .service)) (reason := .window)
    (by simp [State.acceptanceTable])
  have hbusy := cond_of_passes hp (reason := .engineBusy)
    (cond := decide (f.opcode.toNat = 12) && (s.engine.window.any fun w => decide (w.rank ≠ f.rank)))
    (by simp [State.acceptanceTable])
  have hopen := cond_of_passes hp (reason := .bankOpen)
    (cond := decide ((f.opcode.toNat = 6 ∨ f.opcode.toNat = 7 ∨ f.opcode.toNat = 12) ∧ ∃ k : Bank, s.isOpen f.rank k = true))
    (by simp [State.acceptanceTable])
  have hsleep := of_decide_eq_false hsleep
  have hwake := of_decide_eq_false hwake
  have hwindow := of_decide_eq_false hwindow
  have hopen := of_decide_eq_false hopen
  have hexit : f.opcode = opSleepExit ↔ f.opcode.toNat = 8 := opcode_eq_iff
  have hstates : (s.rank f.rank).state = .awake ∨ (s.rank f.rank).state = .asleep := by
    have hhold := (h.frame.ranks f.rank).high hh
    cases hs : (s.rank f.rank).state with
    | awake => exact .inl rfl
    | asleep => exact .inr rfl
    | service => exact absurd hs hwindow
    | resetHold => exact absurd hs hhold
  refine ⟨fun hne => hstates.resolve_right fun ha => hsleep ⟨ha, fun h8 => hne (hexit.mpr h8)⟩,
    fun he => hstates.resolve_left fun ha => hwake ⟨ha, hexit.mp he⟩, fun hop k => ?_, fun hop => ?_⟩
  · refine Bool.eq_false_iff.mpr fun hk => hopen ⟨?_, k, hk⟩
    rcases hop with hop | hop | hop
    · exact .inl (opcode_eq_iff.mp hop)
    · exact .inr (.inl (opcode_eq_iff.mp hop))
    · exact .inr (.inr (opcode_eq_iff.mp hop))
  · have h12 : decide (f.opcode.toNat = 12) = true := decide_eq_true (opcode_eq_iff.mp hop)
    rw [h12, Bool.true_and] at hbusy
    cases hw : s.engine.window with
    | none => rfl
    | some w =>
      have hrank : w.rank = f.rank := by simpa [hw] using hbusy
      exact absurd ((h.frame.ranks f.rank).service.mpr ⟨w, hw, hrank⟩) hwindow

/-! #### Accepted commands -/

section Accepted

variable {s : State} {f : FirstBeat}

/-- A command forwarded by an AWAKE rank, with other banks (R124, R127). -/
theorem State.Inv.forwardBanks (h : s.Inv) (ha : (s.rank f.rank).state = .awake) (b : SecondBeat)
    (banks : Vector Bool 16 → Vector Bool 16) :
    (s.modRank f.rank fun u => { u with bankOpen := banks u.bankOpen, port := u.forwarding s.clock.slot f b }).Inv :=
  h.modRank rfl rfl rfl (((h.frame.ranks f.rank).withBanks ha (banks (s.rank f.rank).bankOpen)).forwarded f b)

theorem State.Inv.forward (h : s.Inv) (b : SecondBeat) : (s.forward s.clock.slot f b).Inv := by
  rw [forward_eq_modRank]
  exact h.modRank rfl rfl rfl ((h.frame.ranks f.rank).forwarded f b)

theorem State.Inv.countRefresh (h : s.Inv) (r : Rank) : (s.countRefresh r).Inv := by
  refine (h.steady.countRefresh r).inv h ?_
  rw [countRefresh_eq]
  rfl

/-- A row of the rank (R118). -/
theorem openRow_lt (h : s.Inv) (b : SecondBeat) : s.rowOf f b < (s.params f.rank).rows := by
  refine Nat.mod_lt _ ?_
  have := (h.parameters.params f.rank).rows
  omega

/-- The rank of a window started after a take, re-evaluated: in SERVICE, with its tables as they are. -/
theorem rank_of_started {t : State} {r : Rank} {urgentOnly : Bool} {x : Option Job} (ht : s.take r urgentOnly = (t, x))
    (kind : WindowKind) (purpose : Purpose) (length : Nat) :
    (t.startWindow r kind purpose length).restage.rank r =
      { s.rank r with
        state := .service, contexts := ((t.startWindow r kind purpose length).restage.rank r).contexts } := by
  have hstart : (t.startWindow r kind purpose length).rank r = { t.rank r with state := .service } :=
    State.rank_modRank_same t r fun u => { u with state := .service }
  refine ((restage_moves (t.startWindow r kind purpose length)).rank r).trans ?_
  rw [hstart, (take_tableMoves ht).rank r]

/-- Debt raised by a conversion, within its limit, and CONVERTED with it (R103 a). -/
theorem State.Steady.raiseDebt {u : State} (h : u.Steady) {r : Rank} (hd : (u.rank r).debt < (u.params r).debtLimit) :
    (({ u with queue := { u.queue with stats := { u.queue.stats with converted := u.queue.stats.converted + 1 } } }).modRank r
      fun x => { x with debt := x.debt + 1 }).Steady := by
  have hf := (setQueue_moves u { u.queue with
    stats := { u.queue.stats with converted := u.queue.stats.converted + 1 } }).frame h.sound.frame
  have hj := h.sound.jobs.congr (t := { u with queue := { u.queue with
    stats := { u.queue.stats with converted := u.queue.stats.converted + 1 } } }) (fun _ _ => rfl) (fun _ => .of_eq rfl) rfl
    fun _ h => h
  have hs : State.Steady { u with queue := { u.queue with
      stats := { u.queue.stats with converted := u.queue.stats.converted + 1 } } } := ⟨⟨hf, hj, h.sound.listed⟩, h.staged⟩
  exact ⟨hs.sound.modRank rfl rfl ((hf.ranks r).withDebt hd), hs.staged.modRank rfl⟩

/-- An accepted REFRESH (R101 to R104). -/
theorem State.Inv.acceptRefresh (h : s.Inv) (ha : (s.rank f.rank).state = .awake) (hc : ∀ k, s.isOpen f.rank k = false)
    (b : SecondBeat) : (s.acceptRefresh s.clock.slot f b).Inv := by
  cases hmay : s.mayConvert f.rank with
  | false =>
    rw [acceptRefresh_of_not_mayConvert hmay]
    exact (h.forward b).countRefresh f.rank
  | true =>
    obtain ⟨hw, -, hdebt⟩ := mayConvert_eq_true_iff.mp hmay
    rcases ht : s.take f.rank true with ⟨t, _ | j⟩
    · obtain ⟨hsound, hwindow⟩ := sound_of_take_none h hw ht
      have hrestaged : t.restage.Inv := inv_iff.mpr ⟨hsound.restage, fun x hx => by
        rw [(restage_moves t).window, hwindow] at hx
        cases hx⟩
      obtain ⟨-, -, hclock, -⟩ := State.shell_eq_iff.mp (take_tableMoves ht).shell
      rw [acceptRefresh_of_take_none hmay ht, ← hclock, ← (restage_moves t).clock]
      exact (hrestaged.forward b).countRefresh f.rank
    · have hparams := h.parameters.params f.rank
      obtain ⟨hsteady, hwindow, hsized, v, hv⟩ :=
        steady_of_take_some h hw ht ha hc .converted hparams.refresh hparams.refreshStep
      have hunit := rank_of_started ht .converted (.job j) (s.params f.rank).refreshLen
      have hconverted : (t.convert f.rank j).Steady := by
        rw [State.convert, (take_tableMoves ht).params f.rank]
        refine hsteady.raiseDebt ?_
        exact (congrArg RankUnit.debt hunit).trans_lt (hdebt.trans_eq (congrArg (fun u => u.params.debtLimit) hunit).symm)
      have hcounted := hconverted.countRefresh f.rank
      have hfinal : ((t.convert f.rank j).countRefresh f.rank).engine.window =
          some (s.freshWindow f.rank .converted (.job j) (s.params f.rank).refreshLen) := by
        rw [countRefresh_eq, State.convert, (take_tableMoves ht).params f.rank]
        exact (restage_moves _).window.trans hwindow
      rw [acceptRefresh_of_take_some hmay ht, firstStep_of_window hfinal hv]
      exact hcounted.openStep hfinal hsized hv _

/-- An accepted SERVICE GRANT (R81). -/
theorem State.Inv.acceptGrant (h : s.Inv) (ha : (s.rank f.rank).state = .awake) (hc : ∀ k, s.isOpen f.rank k = false)
    (hw : s.engine.window = none) (n : Nat) : (s.acceptGrant n f).Inv := by
  have hparams := h.parameters.params f.rank
  rcases ht : s.take f.rank false with ⟨t, _ | j⟩
  · by_cases hrepay : 0 < (s.rank f.rank).debt ∧ (s.params f.rank).refreshLen ≤ (s.params f.rank).grantLen
    · have hstarted := inv_of_take_none (purpose := .repay) h hw ht ha hc (.inr rfl) .granted hparams.grant hparams.grantStep
      rw [acceptGrant_of_repay ht hrepay, engineDrive_eq]
      exact hstarted.modRank rfl rfl rfl ((hstarted.frame.ranks f.rank).driving ..)
    · rw [acceptGrant_of_vacant ht hrepay]
      exact inv_of_take_none h hw ht ha hc (.inl rfl) .granted hparams.grant hparams.grantStep
  · obtain ⟨hsteady, hwindow, hsized, v, hv⟩ := steady_of_take_some h hw ht ha hc .granted hparams.grant hparams.grantStep
    have hfinal := (restage_moves (t.startWindow f.rank .granted (.job j) (s.params f.rank).grantLen)).window.trans hwindow
    rw [acceptGrant_of_take_some ht, firstStep_of_window hfinal hv]
    exact hsteady.openStep hfinal hsized hv _

/-- An accepted SLEEP ENTER (R146). -/
theorem State.Inv.acceptSleepEnter (h : s.Inv) (ha : (s.rank f.rank).state = .awake) (hc : ∀ k, s.isOpen f.rank k = false)
    (b : SecondBeat) : (s.acceptSleepEnter s.clock.slot f b).Inv := by
  rw [acceptSleepEnter_eq]
  refine State.Steady.inv (s := s) (State.Sound.restage (h.steady.sound.modRank rfl rfl ?_)) h (restage_moves _).window
  exact ((h.frame.ranks f.rank).slept ha hc).forwarded f b

/-- Jobs that leave as COVERED keep the balance (R71, R74). -/
theorem balance_addCovered {st : Stats} {n m : Nat} {x : BitVec 32} (h : st.Balance (n + m)) (hx : BitVec.ofNat 32 m = x) :
    (st.addCovered x).Balance n := by
  unfold Stats.Balance Stats.addCovered at *
  dsimp only
  rw [h, BitVec.ofNat_add, hx]
  ac_rfl

/-- Jobs that leave as DISCARDED keep the balance (R72, R74). -/
theorem balance_addDiscarded {st : Stats} {n m : Nat} {x : BitVec 32} (h : st.Balance (n + m)) (hx : BitVec.ofNat 32 m = x) :
    (st.addDiscarded x).Balance n := by
  unfold Stats.Balance Stats.addDiscarded at *
  dsimp only
  rw [h, BitVec.ofNat_add, hx]
  ac_rfl

/-- An accepted SLEEP EXIT (R149). -/
theorem State.Inv.acceptSleepExit (h : s.Inv) (ha : (s.rank f.rank).state = .asleep) (b : SecondBeat) :
    (s.acceptSleepExit s.clock.slot f b).Inv := by
  have hl := h.frame.ranks f.rank
  cases hcov : (s.rank f.rank).covered with
  | false =>
    rw [acceptSleepExit_of_short hcov]
    refine State.Steady.inv (s := s) (State.Sound.restage (h.steady.sound.modRank rfl rfl ?_)) h (restage_moves _).window
    exact (hl.woken ha).forwarded f b
  | true =>
    rw [acceptSleepExit_of_covered hcov]
    refine State.Steady.inv (s := s) (State.Sound.restage ?_) h (restage_moves _).window
    have hne (q : Rank) (hq : q ≠ f.rank) (g : RankUnit → RankUnit) (queue : Queue) :
        (State.modRank { s with queue := queue } f.rank g).rank q = s.rank q :=
      State.rank_modRank_ne { s with queue := queue } g hq
    refine h.steady.sound.queueWithout (hl.no_window (by simp [ha])) (fun n m => balance_addCovered) rfl rfl (fun b => ?_)
      (fun q hq b => ?_) (fun q hq => ?_) ?_
    · rw [State.context, State.rank_modRank_same]
      exact Vector.getElem_replicate b.isLt
    · rw [State.context, hne q hq]
      rfl
    · rw [State.params, hne q hq]
      rfl
    · refine ((setQueue_moves s _).frame h.frame).modRank ?_
      exact (((((hl.woken ha).withDebt (Nat.zero_le _)).recounted).withContexts _).forwarded f b)

/-- An accepted CLOSE in one change of its rank. -/
theorem acceptClose_eq (s : State) (n : Nat) (f : FirstBeat) (b : SecondBeat) :
    s.acceptClose n f b = s.modRank f.rank fun u => { u with
      bankOpen := u.bankOpen.set f.bank.val false f.bank.isLt, port := u.forwarding n f b } :=
  modRank_forward s n f b _ fun _ => rfl

/-- An accepted CLOSE ALL in one change of its rank. -/
theorem acceptCloseAll_eq (s : State) (n : Nat) (f : FirstBeat) (b : SecondBeat) :
    s.acceptCloseAll n f b = s.modRank f.rank fun u => { u with
      bankOpen := Vector.replicate 16 false, port := u.forwarding n f b } :=
  modRank_forward s n f b _ fun _ => rfl

/-- Every accepted command keeps a legal state. -/
theorem State.Inv.acceptHeld (h : s.Inv) (hacc : s.Accepts f) (b : SecondBeat) : (s.acceptHeld s.clock.slot f b).Inv := by
  have hawake (op : BitVec 4) (hop : f.opcode = op) (hne : op ≠ opSleepExit) : (s.rank f.rank).state = .awake :=
    hacc.awake (hop ▸ hne)
  rcases opcode_cases f.opcode with ho | ho | ho | ho | ho | ho | ho | ho | ho | ho
  · have ha := hawake _ ho (by decide)
    rw [acceptHeld_of_open ho, acceptOpen_eq]
    refine (h.forwardBanks ha b fun v => v.set f.bank.val true f.bank.isLt).countActivation f.rank f.bank ?_
    rw [params_modRank rfl]
    exact openRow_lt h b
  · rw [acceptHeld_of_close ho, acceptClose_eq]
    exact h.forwardBanks (hawake _ ho (by decide)) b fun v => v.set f.bank.val false f.bank.isLt
  · rw [acceptHeld_of_closeAll ho, acceptCloseAll_eq]
    exact h.forwardBanks (hawake _ ho (by decide)) b fun _ => Vector.replicate 16 false
  · have ha : (s.rank f.rank).state = .awake := by
      rcases ho with ho | ho
      · exact hawake _ ho (by decide)
      · exact hawake _ ho (by decide)
    rw [acceptHeld_of_access ho, acceptAccess_eq]
    exact h.forwardBanks ha b _
  · rw [acceptHeld_of_refresh ho]
    exact h.acceptRefresh (hawake _ ho (by decide)) (hacc.closed (.inl ho)) b
  · rw [acceptHeld_of_sleepEnter ho]
    exact h.acceptSleepEnter (hawake _ ho (by decide)) (hacc.closed (.inr (.inl ho))) b
  · rw [acceptHeld_of_sleepExit ho]
    exact h.acceptSleepExit (hacc.asleep ho) b
  · rw [acceptHeld_of_mode ho]
    exact h.forward b
  · rw [acceptHeld_of_serviceGrant ho]
    exact h.acceptGrant (hawake _ ho (by decide)) (hacc.closed (.inr (.inr ho))) (hacc.idle ho) _
  · rw [acceptHeld_of_undefined ho]
    exact h

/-- A refused command keeps a legal state (R122, R132). -/
theorem State.Inv.refuse (h : s.Inv) (n : Nat) (reason : Reason) (b : SecondBeat) : (s.refuse n reason f b).Inv := by
  unfold State.refuse
  split
  · exact (h.report n _).evaluate ..
  · exact h.report n _

end Accepted

/-! #### The rows (R113 to R116) -/

/-- What the checks look at does not depend on the held beat. -/
theorem firstFailure_setHeld (s : State) (x : Option FirstBeat) (f : FirstBeat) (b : SecondBeat) :
    (s.setHeld x).firstFailure f b = s.firstFailure f b :=
  rfl

/-- A row with a SECOND beat keeps a legal state. -/
theorem State.Inv.exec_second {s t : State} (h : s.Inv) {c : Instr} {b : SecondBeat} (hc : secondBeatOf c = some b)
    (ht : exec c s = .next t) : t.Inv := by
  cases hl : s.link.resetHigh with
  | false =>
    rw [exec_second_low hc hl] at ht
    cases ht
    exact h.passSlot
  | true =>
    cases hh : s.link.held with
    | none =>
      rw [exec_second_alone hc hl hh] at ht
      cases ht
      exact (h.report _ _).passSlot
    | some f =>
      have hfree : (s.setHeld none).Inv := h.setHeld (.inl rfl)
      cases hf : s.firstFailure f b with
      | none =>
        rw [exec_accepted hc hl hh hf] at ht
        cases ht
        have hacc : (s.setHeld none).Accepts f := accepts_of_passes hfree hl ((firstFailure_setHeld s none f b).trans hf)
        show ((s.setHeld none).passSlot.acceptHeld s.clock.slot f b).Inv
        rw [acceptHeld_passSlot]
        exact (hfree.acceptHeld hacc b).passSlot
      | some reason =>
        rw [exec_refused hc hl hh hf] at ht
        cases ht
        show ((s.setHeld none).passSlot.refuse s.clock.slot reason f b).Inv
        exact hfree.passSlot.refuse _ _ b

/-- An IDLE beat keeps a legal state. -/
theorem State.Inv.takeIdle {s : State} (h : s.Inv) : s.takeIdle.Inv := by
  unfold State.takeIdle
  dsimp only
  split
  · exact h.passSlot
  · split
    · exact h.passSlot
    · exact ((h.setHeld (.inl rfl)).report _ _).passSlot

/-- An INVALID beat keeps a legal state. -/
theorem State.Inv.takeInvalid {s : State} (h : s.Inv) : s.takeInvalid.Inv := by
  unfold State.takeInvalid
  dsimp only
  split
  · exact h.passSlot
  · split
    · exact (h.report _ _).passSlot
    · exact ((h.setHeld (.inl rfl)).report _ _).passSlot

/-- A FIRST beat keeps a legal state. -/
theorem State.Inv.exec_firstBeat {s t : State} (h : s.Inv) {f : FirstBeat} (ht : exec (.firstBeat f) s = .next t) : t.Inv := by
  obtain ⟨hlow, hnone, hheld⟩ := firstBeatIsHeld f s
  cases hl : s.link.resetHigh with
  | false =>
    rw [hlow hl] at ht
    cases ht
    exact h.passSlot
  | true =>
    cases hh : s.link.held with
    | none =>
      rw [hnone hl hh] at ht
      cases ht
      exact (h.setHeld (f := some f) (.inr hl)).passSlot
    | some g =>
      rw [hheld g hl hh] at ht
      cases ht
      exact ((h.setHeld (f := some f) (.inr hl)).passSlot).report _ _

end Sys2Proof.Machine
end

section
/-! ### The invariant through the part's own events

Steps and expiries of windows, beats and pulses that leave, tracking-window closes and the millisecond timers. -/

namespace Sys2Proof.Machine

open Sys2Proof

section Events

variable {s t : State}

/-- ENGINE_OPEN keeps a legal state (R84). -/
theorem State.Inv.exec_engineOpen (h : s.Inv) {early : Bool} (ht : exec (.engineOpen early) s = .next t) : t.Inv := by
  by_cases hnone : ∀ w, s.engine.window = some w → w.stepOpen = true ∨ w.nextVictim = none
  · rw [exec_engineOpen_of_none early hnone] at ht
    cases ht
    exact h
  · push Not at hnone
    obtain ⟨w, hw, ho, hv⟩ := hnone
    obtain ⟨⟨j, v⟩, hv⟩ := Option.ne_none_iff_exists'.mp hv
    rw [exec_engineOpen_of_next early hw (Bool.eq_false_iff.mpr ho) hv] at ht
    cases ht
    exact (h.reach _).steady.openStep hw (h.window w hw).sized hv _

/-- ENGINE_CLOSE keeps a legal state (R84 b). -/
theorem State.Inv.exec_engineClose (h : s.Inv) {early : Bool} (ht : exec (.engineClose early) s = .next t) : t.Inv := by
  by_cases hnone : ∀ w, s.engine.window = some w → w.stepOpen = false ∨ w.purpose = .vacant ∨ w.purpose = .repay
  · rw [exec_engineClose_of_none early hnone] at ht
    cases ht
    exact h
  · push Not at hnone
    obtain ⟨w, hw, ho, hvacant, hrepay⟩ := hnone
    cases hp : w.purpose with
    | vacant => exact absurd hp hvacant
    | repay => exact absurd hp hrepay
    | job j =>
      have ho : w.stepOpen = true := by simpa using ho
      rw [exec_engineClose_of_open early hw hp ho] at ht
      cases ht
      exact (h.reach _).closeStep hw hp ho _

/-- WINDOW_EXPIRY keeps a legal state (R89). -/
theorem State.Inv.exec_windowExpiry (h : s.Inv) (ht : exec .windowExpiry s = .next t) : t.Inv := by
  by_cases hnone : ∀ w, s.engine.window = some w → w.spent = false
  · rw [exec_windowExpiry_of_none hnone] at ht
    cases ht
    exact h
  · push Not at hnone
    obtain ⟨w, hw, hspent⟩ := hnone
    rw [exec_windowExpiry_of_spent hw (by simpa using hspent)] at ht
    cases ht
    exact h.expired hw

/-- PORT_EMIT keeps a legal state (R127). -/
theorem State.Inv.exec_portEmit (h : s.Inv) {r : Rank} (ht : exec (.portEmit r) s = .next t) : t.Inv := by
  cases ht
  have hu := emit_eq (s.rank r) s.clock.slot
  exact h.modRank (congrArg RankUnit.state hu :) (congrArg RankUnit.contexts hu :) (congrArg RankUnit.params hu :)
    (h.frame.ranks r).emitted

/-- ALERT_PULSE keeps a legal state (R134). -/
theorem State.Inv.exec_alertPulse (h : s.Inv) (ht : exec .alertPulse s = .next t) : t.Inv := by
  have hu := h.frame.refusals
  simp only [exec, execAlertPulse] at ht
  split at ht
  · rename_i n rest hs
    split at ht
    · cases ht
      have hschedule := hu.schedule
      rw [hs] at hschedule
      exact h.withRefusals ⟨hu.log, hu.overflow, (List.pairwise_cons.mp hschedule).2⟩ h.frame.distance
    · cases ht
      exact h
  · cases ht
    exact h

/-- TRACKING_WINDOW_CLOSE keeps a legal state (R19). -/
theorem State.Inv.exec_trackingWindowClose (h : s.Inv) {r : Rank} (ht : exec (.trackingWindowClose r) s = .next t) : t.Inv := by
  cases ht
  exact h.closeTracking r

/-- STALENESS_EXPIRY keeps a legal state (R31). -/
theorem State.Inv.exec_stalenessExpiry (h : s.Inv) (ht : exec .stalenessExpiry s = .next t) : t.Inv := by
  simp only [exec, execStalenessExpiry] at ht
  split at ht
  · cases ht
    exact h.withBands h.frame.stalePeriod
  · cases ht
    exact h

end Events

/-! #### Both ranks changed alike -/

/-- A rank of a state whose ranks are mapped. -/
theorem rank_mapRanks (s : State) (f : RankUnit → RankUnit) (r : Rank) :
    State.rank { s with ranks := s.ranks.map f } r = f (s.rank r) :=
  PerRank.get_map s.ranks f r

/-- A change of both ranks that keeps their states, tables and parameters keeps a legal state. -/
theorem State.Inv.mapRanks {s : State} (h : s.Inv) {f : RankUnit → RankUnit} (hs : ∀ u, (f u).state = u.state)
    (hc : ∀ u, (f u).contexts = u.contexts) (hp : ∀ u, (f u).params = u.params)
    (hl : ∀ r, (f (s.rank r)).Legal r s.link.resetHigh s.engine.window s.clock.slot) :
    State.Inv { s with ranks := s.ranks.map f } := by
  have hrank := rank_mapRanks s f
  refine inv_iff.mpr ⟨⟨⟨⟨fun r => (hrank r).symm ▸ hl r, h.frame.held, h.frame.stalePeriod, h.frame.distance,
    h.frame.refusals, h.frame.mgmt, h.frame.active⟩, ?_, h.steady.sound.listed⟩, ?_⟩, h.window⟩
  · refine h.steady.sound.jobs.congr (fun r b => ?_) (fun r => .of_eq ?_) rfl fun _ h => h
    · rw [State.context, hrank, hc]
      rfl
    · rw [State.params, hrank, hp]
      rfl
  · have hstaged := h.staged
    have he : State.eligible { s with ranks := s.ranks.map f } = s.eligible := by
      funext j
      rw [State.eligible, hrank, hs]
      rfl
    unfold State.StagedLegal at hstaged ⊢
    rwa [he]

/-- COVERAGE_TICK keeps a legal state (R148). -/
theorem State.Inv.exec_coverageTick {s t : State} (h : s.Inv) (ht : exec .coverageTick s = .next t) : t.Inv := by
  cases ht
  have hticked := h.mapRanks (f := fun u => { u with coverage := u.coverage.tick }) (fun _ => rfl) (fun _ => rfl) (fun _ => rfl)
    fun r => (h.frame.ranks r).ticked
  exact hticked.withBands h.frame.stalePeriod

/-- Settles O18: the expiry that is due, and both timers at the boundary. -/
theorem millisecondTimers : Obligations.MillisecondTimers := by
  unfold Obligations.MillisecondTimers
  refine ⟨fun s period measured ht hle => ⟨?_, rfl⟩, fun s => ?_⟩
  · have hdue : s.bands.timer.due = true := by
      rw [ht]
      exact decide_eq_true hle
    simp only [exec, execStalenessExpiry, hdue, if_true]
  · have hcoverage (c : CoverageTimer) : c.tick = match c with
        | .stopped => .stopped
        | .running k => .running (if k < 256 then k + 1 else 256) := by
      cases c with
      | stopped => rfl
      | running k =>
        show CoverageTimer.running (min 256 (k + 1)) = .running (if k < 256 then k + 1 else 256)
        congr 1
        split <;> omega
    have hstale (c : StaleTimer) : c.tick = match c with
        | .stopped => .stopped
        | .running period measured => .running period (if measured < period then measured + 1 else period) := by
      cases c with
      | stopped => rfl
      | running period measured =>
        show StaleTimer.running period (min period (measured + 1)) =
          .running period (if measured < period then measured + 1 else period)
        congr 1
        split <;> omega
    simp only [exec, execCoverageTick, hcoverage, hstale] <;> rfl

end Sys2Proof.Machine
end

section
/-! ### RESET/, power-on and RESTART

The values each of them leaves, and that they are legal: no job, no window and no entry is left, and what is kept was legal. -/

namespace Sys2Proof.Machine

open Sys2Proof

/-! #### The values (R141, R144, R145, R165) -/

/-- The address of the part is 58H plus the straps (R153). -/
theorem address_of_straps (straps : BitVec 2) :
    Config.baseAddress + straps.setWidth 7 = BitVec.ofNat 7 (0x58 + straps.toNat) := by
  revert straps
  decide

/-- Settles O4: the values as the definitions give them. -/
theorem powerOnResetValues : Obligations.PowerOnResetValues := by
  unfold Obligations.PowerOnResetValues
  refine ⟨fun high straps s => ?_, rfl⟩
  show Host.Outcome.next { State.powerOn s.pending high straps with wire := s.wire } = _
  simp only [State.powerOn, Mgmt.powerOn, address_of_straps]
  rfl

section Falling

variable {s : State}

/-- RESET/ falling from high (R144). -/
theorem exec_resetFalling_of_high (h : s.link.resetHigh = true) : exec .resetFalling s = .next { s with
    link := { held := none, resetHigh := false }
    ranks := s.ranks.map RankUnit.resetFall
    queue := s.discardAll
    engine := s.engine.abort } := by
  simp only [exec, execResetFalling, h, if_true]

theorem exec_resetFalling_of_low (h : s.link.resetHigh = false) : exec .resetFalling s = .next s := by
  simp only [exec, execResetFalling, h, Bool.false_eq_true, if_false]

/-- RESET/ rising from low (R145). -/
theorem exec_resetRising_of_low (h : s.link.resetHigh = false) : exec .resetRising s = .next ({ s with
    link := { held := none, resetHigh := true }
    ranks := s.ranks.map fun u => { u with state := .awake } }).restage := by
  simp only [exec, execResetRising, h, Bool.false_eq_true, if_false]

theorem exec_resetRising_of_high (h : s.link.resetHigh = true) : exec .resetRising s = .next s := by
  simp only [exec, execResetRising, h, if_true]

/-- The held jobs without a job in the active slot. -/
theorem heldCount_of_jobless (h : ∀ w, s.engine.window = some w → w.purpose = .vacant ∨ w.purpose = .repay) :
    s.heldCount = s.queue.list.length := by
  have hactive : s.active = none := by
    unfold State.active
    split
    · rename_i w hw
      rcases h w hw with hp | hp
      · simp only [hp]
      · simp only [hp]
    · rfl
  rw [State.heldCount, hactive]
  rfl

/-- The held jobs with a job in the active slot. -/
theorem heldCount_of_job {w : Window} {j : Job} (hw : s.engine.window = some w) (hp : w.purpose = .job j) :
    s.heldCount = s.queue.list.length + 1 := by
  rw [State.heldCount, active_of_job hw hp]
  rfl

end Falling

/-- Settles O39: each edge by its equation; the held jobs and the aborted window by the window in progress. -/
theorem resetLineActs : Obligations.ResetLineActs := by
  unfold Obligations.ResetLineActs
  refine ⟨?_, fun s => ?_, fun s r => ?_⟩
  · intro s hhigh fallen aborted
    have hexec (engine : Engine) (held : Nat) (he : s.engine.abort = engine) (hh : s.heldCount = held) :
        exec .resetFalling s = .next (fallen engine held) := by
      subst he hh
      exact exec_resetFalling_of_high hhigh
    refine ⟨fun hw => ?_, fun w j l hw hp hl => ?_, fun w hw hp => ?_⟩
    · exact hexec _ _ (by simp only [Engine.abort, hw]) (heldCount_of_jobless (by simp [hw]))
    · refine hexec _ _ ?_ (heldCount_of_job hw hp)
      simp only [Engine.abort, hw, Window.aborted, hp, Job.listed, hl, Option.getD_some, aborted]
    · refine hexec _ _ ?_ (heldCount_of_jobless fun x hx => ?_)
      · rcases hp with hp | hp
        · simp only [Engine.abort, hw, Window.aborted, hp, aborted]
        · simp only [Engine.abort, hw, Window.aborted, hp, aborted]
      · cases hw.symm.trans hx
        exact hp
  · exact ⟨exec_resetRising_of_low, exec_resetRising_of_high, exec_resetFalling_of_low⟩
  · simp [State.rankResetLow]

/-! #### RESTART (R96, R165) -/

section Restart

variable {s : State}

/-- RESTART with no step in progress drives nothing (R96). -/
theorem abortClose_of_none
    (h : ∀ w, s.engine.window = some w → w.stepOpen = true → w.purpose = .vacant ∨ w.purpose = .repay) (m : Nat) :
    s.abortClose m = s := by
  unfold State.abortClose
  split
  · rename_i w hw
    cases hp : w.purpose with
    | job j =>
      have ho : w.stepOpen = false := by
        refine Bool.eq_false_iff.mpr fun ho => ?_
        rcases h w hw ho with h | h
        · exact nomatch hp.symm.trans h
        · exact nomatch hp.symm.trans h
      simp only [ho, Bool.false_eq_true, if_false]
    | vacant => rfl
    | repay => rfl
  · rfl

/-- RESTART drives the CLOSE of a step in progress (R96). -/
theorem abortClose_of_step {w : Window} {j : Job} (hw : s.engine.window = some w) (hp : w.purpose = .job j)
    (ho : w.stepOpen = true) (m : Nat) : s.abortClose m = s.engineDrive m w.rank opClose j.bank 0 := by
  simp only [State.abortClose, hw, hp, ho, if_true]

/-- What RESTART leaves, with the beats `extra` placed on each port (R165). -/
theorem exec_restart {early : Bool} {extra : Rank → List PortBeat}
    (h : ∀ r, (s.abortClose (s.instantSlot early)).rank r = { s.rank r with port := (s.rank r).port ++ extra r }) :
    exec (.restart early) s = .next (State.reply
      { State.powerOn s.pending s.link.resetHigh 0 with
        wire := s.wire
        clock := s.clock
        ranks := ⟨{ RankUnit.powerOn s.link.resetHigh with port := (s.rank 0).port ++ extra 0, portOut := (s.rank 0).portOut },
                  { RankUnit.powerOn s.link.resetHigh with port := (s.rank 1).port ++ extra 1, portOut := (s.rank 1).portOut }⟩
        refusals := { Refusals.powerOn with schedule := s.refusals.schedule, alert := s.refusals.alert }
        mgmt := s.mgmt } .ok) := by
  have h0 : (s.abortClose (s.instantSlot early)).ranks.rank0 = { s.rank 0 with port := (s.rank 0).port ++ extra 0 } := h 0
  have h1 : (s.abortClose (s.instantSlot early)).ranks.rank1 = { s.rank 1 with port := (s.rank 1).port ++ extra 1 } := h 1
  simp only [exec, execRestart, PerRank.map, h0, h1]
  rfl

end Restart

/-- Settles O40: the ports by `abortClose`, the rest as it stands. -/
theorem restartReturnsToPowerOn : Obligations.RestartReturnsToPowerOn := by
  unfold Obligations.RestartReturnsToPowerOn
  intro s early zero after
  refine ⟨fun hnone => ?_, fun w j hw ho hp => ?_⟩
  · have h := exec_restart (s := s) (early := early) (extra := fun _ => []) fun r => by
      rw [abortClose_of_none hnone, List.append_nil]
    exact h
  · have h := exec_restart (s := s) (early := early) (extra := fun r => if r = w.rank then
        engineBeats ((s.rank r).engineSlot (s.instantSlot early)) opClose w.rank j.bank 0 else []) fun r => ?_
    · exact h
    rw [abortClose_of_step hw hp ho, engineDrive_eq, State.rank_modRank]
    by_cases hr : r = w.rank
    · subst hr
      rw [if_pos rfl, if_pos rfl]
    · rw [if_neg hr, if_neg hr, List.append_nil]

/-! #### Legal after a reset (R22, R79, R141, R152) -/

/-- A cleared vector of tables. -/
theorem get_replicate {α : Type} (x : α) (b : Bank) : (Vector.replicate 16 x).get b = x :=
  Vector.getElem_replicate b.isLt

/-- The defaults keep to their rules (R25, R38, R100, R150, R160). -/
theorem default_legal : RankParams.default.Legal := by
  constructor <;> decide

/-- A rank at its power-on values, with beats on its port that were legal (R145). -/
theorem powerOn_legal {u : RankUnit} {now : Nat} (h : u.PortLegal now) (high : Bool) (r : Rank) :
    RankUnit.Legal { RankUnit.powerOn high with port := u.port, portOut := u.portOut } r high none now where
  params := default_legal
  repairsSize := Nat.zero_le _
  repairsInside := fun x hx => (List.not_mem_nil hx).elim
  repairsApart := List.Pairwise.nil
  count := Nat.zero_lt_succ _
  debt := Nat.zero_le _
  service := by cases high <;> simp [RankUnit.powerOn]
  low := by cases high <;> simp [RankUnit.powerOn]
  high := by cases high <;> simp [RankUnit.powerOn]
  timer := by cases high <;> simp [RankUnit.TimerLegal, RankUnit.powerOn]
  closed := fun _ b => get_replicate false b
  banks := nofun
  slots := h.apart
  driven := h.driven

/-- A rank written in another way. -/
theorem RankUnit.Legal.of_eq {u v : RankUnit} {r : Rank} {high : Bool} {window : Option Window} {now : Nat}
    (h : u.Legal r high window now) (hv : v = u) : v.Legal r high window now := hv ▸ h

/-- A rank when RESET/ falls (R144). -/
theorem RankUnit.Legal.fallen {u : RankUnit} {r : Rank} {high : Bool} {window : Option Window} {now : Nat}
    (h : u.Legal r high window now) : u.resetFall.Legal r false none now :=
  { h with
    count := h.windowRefreshes_pos
    debt := Nat.zero_le _
    service := ⟨nofun, nofun⟩
    low := fun _ => rfl
    high := nofun
    timer := nofun
    closed := fun _ b => get_replicate false b
    banks := nofun
    slots := List.nodup_nil
    driven := nofun }

/-- A rank when RESET/ rises (R145). -/
theorem RankUnit.Legal.risen {u : RankUnit} {r : Rank} {window : Option Window} {now : Nat} (h : u.Legal r false window now) :
    RankUnit.Legal { u with state := .awake } r true window now := by
  have hs : u.state = .resetHold := h.low rfl
  have hw := h.no_window (by simp [hs])
  exact
    { h with
      service := ⟨nofun, fun ⟨w, hx, hr⟩ => absurd hr (hw w hx)⟩
      low := nofun
      high := fun _ => nofun
      timer := by simp [RankUnit.TimerLegal, h.stopped (by simp [hs])]
      closed := nofun
      banks := fun w hx hr => absurd hr (hw w hx) }

/-- A frame with no job, no window and no entry is legal. -/
theorem inv_of_cleared {t : State} (hf : t.Frame) (hw : t.engine.window = none) (hq : t.queue.list = [])
    (hfull : t.queue.full = false) (hb : t.queue.stats.Balance 0) (hc : ∀ r b, t.context r b = BankContext.empty) : t.Inv := by
  refine inv_iff.mpr ⟨⟨.of_idle hf hw ?_ ?_, ?_⟩, fun w hx => nomatch hw.symm.trans hx⟩
  · rw [hq]
    exact .of_empty hc hfull hb
  · rw [hq]
    exact ⟨List.Pairwise.nil, nofun⟩
  · unfold State.StagedLegal
    rw [hq]
    exact fun j hj => (List.not_mem_nil hj).elim

/-- The management port at power-on (R153, R166). -/
theorem Mgmt.powerOn_legal (straps : BitVec 2) : (Mgmt.powerOn straps).Legal where
  address := by
    revert straps
    decide
  request := nofun
  released := fun _ => rfl
  position := nofun

/-- The rules of bands, refusals and statistics at power-on (R79, R137, R141). -/
theorem powerOn_rules : Bands.powerOn.stalePeriod ≤ 255 ∧ (2 ≤ Refusals.powerOn.distance ∧ Refusals.powerOn.distance ≤ 15) ∧
    (Refusals.powerOn.log.length ≤ 8 ∧ Refusals.powerOn.overflow ≤ 255) ∧ Queue.powerOn.stats.Balance 0 := by
  refine ⟨?_, ?_, ?_, ?_⟩
  · decide
  · decide
  · decide
  · rfl

/-- Every power-on is legal (R145, R153). -/
theorem powerOn_inv (waiting : List Instr) (high : Bool) (straps : BitVec 2) : (State.powerOn waiting high straps).Inv := by
  have hport : (RankUnit.powerOn high).PortLegal 0 := ⟨List.nodup_nil, nofun⟩
  have hrank (r : Rank) : (State.powerOn waiting high straps).rank r = RankUnit.powerOn high := by
    unfold State.rank PerRank.get
    split <;> rfl
  obtain ⟨hstale, hdistance, ⟨hlog, hoverflow⟩, hbalance⟩ := powerOn_rules
  refine inv_of_cleared ⟨fun r => ?_, fun _ => rfl, hstale, hdistance, ⟨hlog, hoverflow, List.Pairwise.nil⟩,
    Mgmt.powerOn_legal straps, nofun⟩ rfl rfl rfl hbalance fun r b => ?_
  · rw [hrank]
    exact powerOn_legal hport high r
  · rw [State.context, hrank]
    exact get_replicate _ b

/-- Settles O56. -/
theorem legalAtReset : Obligations.LegalAtReset := by
  unfold Obligations.LegalAtReset
  exact ⟨powerOn_inv [] true 0, powerOn_inv⟩

section Rows

variable {s t : State}

/-- POWER_ON_RESET leaves a legal state. -/
theorem State.Inv.exec_powerOnReset {high : Bool} {straps : BitVec 2} (ht : exec (.powerOnReset high straps) s = .next t) :
    t.Inv := by
  cases ht
  exact (powerOn_inv s.pending high straps).withQueues s.pending s.wire

/-- RESET/ falling keeps a legal state (R144). -/
theorem State.Inv.exec_resetFalling (h : s.Inv) (ht : exec .resetFalling s = .next t) : t.Inv := by
  cases hl : s.link.resetHigh with
  | false =>
    rw [exec_resetFalling_of_low hl] at ht
    cases ht
    exact h
  | true =>
    rw [exec_resetFalling_of_high hl] at ht
    cases ht
    have hwindow : s.engine.abort.window = none := by
      unfold Engine.abort
      split
      · rfl
      · assumption
    refine inv_of_cleared ⟨fun r => ?_, fun _ => rfl, h.frame.stalePeriod, h.frame.distance, h.frame.refusals, h.frame.mgmt,
      fun w j hx => nomatch hwindow.symm.trans hx⟩ hwindow rfl rfl ?_ fun r b => ?_
    · rw [hwindow]
      exact (h.frame.ranks r).fallen.of_eq (PerRank.get_map s.ranks RankUnit.resetFall r)
    · have hb := h.steady.sound.jobs.balance
      rw [← heldCount_eq_length] at hb
      exact balance_addDiscarded (n := 0) (m := s.heldCount) (by rwa [Nat.zero_add]) rfl
    · show ((s.ranks.map RankUnit.resetFall).get r).contexts.get b = _
      rw [PerRank.get_map]
      exact get_replicate _ b

/-- RESET/ rising keeps a legal state (R145). -/
theorem State.Inv.exec_resetRising (h : s.Inv) (ht : exec .resetRising s = .next t) : t.Inv := by
  cases hl : s.link.resetHigh with
  | true =>
    rw [exec_resetRising_of_high hl] at ht
    cases ht
    exact h
  | false =>
    rw [exec_resetRising_of_low hl] at ht
    cases ht
    have hrank (r : Rank) : (s.ranks.map fun u => { u with state := .awake }).get r = { s.rank r with state := .awake } :=
      PerRank.get_map ..
    refine State.Steady.inv (State.Sound.restage ⟨⟨fun r => ?_, nofun, h.frame.stalePeriod, h.frame.distance, h.frame.refusals,
      h.frame.mgmt, h.frame.active⟩, ?_, h.steady.sound.listed⟩) h (restage_moves _).window
    · have hr := h.frame.ranks r
      rw [hl] at hr
      exact hr.risen.of_eq (hrank r)
    · refine h.steady.sound.jobs.congr (fun r b => ?_) (fun r => .of_eq ?_) rfl fun _ h => h
      · exact (congrArg (fun u : RankUnit => u.contexts.get b) (hrank r) :)
      · exact (congrArg RankUnit.params (hrank r) :)

/-- A response in the buffer (R154 a). -/
theorem Mgmt.Legal.responded {m : Mgmt} (h : m.Legal) (code : ResponseCode) (body : List Byte) :
    Mgmt.Legal { m with request := none, response := some { code := code, body := body, position := 0 } } where
  address := h.address
  request := nofun
  released := h.released
  position := fun x hx _ => by
    cases hx
    rfl

/-- RESTART keeps a legal state (R165). -/
theorem State.Inv.exec_restart (h : s.Inv) {early : Bool} (ht : exec (.restart early) s = .next t) : t.Inv := by
  cases ht
  have hport (r : Rank) : ((s.abortClose (s.instantSlot early)).rank r).PortLegal s.clock.slot := by
    have hr := h.frame.ranks r
    by_cases hnone : ∀ w, s.engine.window = some w → w.stepOpen = true → w.purpose = .vacant ∨ w.purpose = .repay
    · rw [abortClose_of_none hnone]
      exact ⟨hr.slots, hr.driven⟩
    · push Not at hnone
      obtain ⟨w, hw, ho, hvacant, hrepay⟩ := hnone
      cases hp : w.purpose with
      | vacant => exact absurd hp hvacant
      | repay => exact absurd hp hrepay
      | job j =>
        rw [abortClose_of_step hw hp ho, engineDrive_eq, State.rank_modRank]
        split
        · rename_i hr'
          subst hr'
          have hd := hr.driving (s.instantSlot early) opClose w.rank j.bank 0
          exact ⟨hd.slots, hd.driven⟩
        · exact ⟨hr.slots, hr.driven⟩
  have hrank (r : Rank) : ((s.abortClose (s.instantSlot early)).ranks.map fun u => u.restarted s.link.resetHigh).get r =
      ((s.abortClose (s.instantSlot early)).rank r).restarted s.link.resetHigh := PerRank.get_map ..
  obtain ⟨hstale, hdistance, ⟨hlog, hoverflow⟩, hbalance⟩ := powerOn_rules
  refine inv_of_cleared ⟨fun r => ?_, fun _ => rfl, hstale, hdistance, ⟨hlog, hoverflow, h.frame.refusals.schedule⟩,
    h.frame.mgmt.responded .ok [], nofun⟩ rfl rfl rfl hbalance fun r b => ?_
  · exact (powerOn_legal (hport r) s.link.resetHigh r).of_eq (hrank r)
  · exact (congrArg (fun u : RankUnit => u.contexts.get b) (hrank r) :).trans (get_replicate _ b)

end Rows

end Sys2Proof.Machine
end

section
/-! ### Injections

INJECT JOB by its checks, the table and the count behind them, and the job number it answers (R18, R60, R161). -/

namespace Sys2Proof.Machine

open Sys2Proof

/-! #### The entry of a row -/

section Entry

variable {c : BankContext} {row ceiling : Nat}

theorem marked_of_find {e : Entry} (h : c.find row = some e) : c.marked row = e.mark := by
  simp only [BankContext.marked, h]

theorem countOf_of_find {e : Entry} (h : c.find row = some e) : c.countOf row = e.count := by
  simp only [BankContext.countOf, h]

/-- No entry is found for a row that no entry names. -/
theorem find_eq_none (h : ∀ e ∈ c.entries, e.row ≠ row) : c.find row = none :=
  List.find?_eq_none.mpr fun e he hrow => h e he (eq_of_beq hrow)

theorem marked_of_fresh (h : ∀ e ∈ c.entries, e.row ≠ row) : c.marked row = false := by
  simp only [BankContext.marked, find_eq_none h]

/-- A row with an entry is named. -/
theorem names_of_find {e : Entry} (h : c.find row = some e) : c.names row = true := by
  obtain ⟨he, hrow⟩ := find_spec h
  exact List.any_eq_true.mpr ⟨e, he, beq_iff_eq.mpr hrow⟩

/-- The count of a row whose entry has just been created at the tail. -/
theorem countOf_tail {c' : BankContext} {l : List Entry} {fresh : Entry} (h : ∀ e ∈ l, e.row ≠ fresh.row)
    (hl : c'.entries = l ++ [fresh]) : c'.countOf fresh.row = fresh.count := by
  refine countOf_of_find ?_
  have hnone : l.find? (fun e => e.row == fresh.row) = none :=
    List.find?_eq_none.mpr fun e he hrow => h e he (eq_of_beq hrow)
  rw [BankContext.find, hl, List.find?_append, hnone]
  simp

end Entry

/-! #### The request -/

section Inject

variable {s : State} {r : Rank} {b : Bank} {cls : JobClass} {rank bank kind : Byte}

/-- The class byte of R157. -/
theorem classOf_of_toNat_eq (h : kind.toNat = if cls = .urgent then 1 else 0) : classOf kind = some cls := by
  cases cls with
  | normal => simp [classOf, h]
  | urgent => simp [classOf, h]

/-- The bank byte of R157. -/
theorem bankOf_of_toNat_eq {x : Byte} {b : Bank} (h : x.toNat = b.val) : bankOf x = some b := by
  have hlt : x.toNat < 16 := h ▸ b.isLt
  rw [bankOf, dif_pos hlt]
  exact congrArg some (Fin.ext h)

/-- INJECT JOB by its checks in turn (R161). -/
theorem exec_injectJob (hr : rank.toNat = r.val) (hb : bank.toNat = b.val) (hk : classOf kind = some cls)
    (value : BitVec 24) : exec (.injectJob rank bank value kind) s = .next
      (if (s.params r).rows ≤ value.toNat then s.reply .range
      else if (s.params r).track = false then s.reply .state
      else if (s.context r b).marked value.toNat then s.reply .exists_
      else if 16 ≤ s.heldCount then s.reply .queueFull
      else ((s.context r b).inject (s.ceiling r) value.toNat).elim (s.reply .tableFull)
        (s.injectInto r b value.toNat cls)) := by
  show execInjectJob rank bank value kind s = _
  simp only [execInjectJob, rankOf_of_toNat_eq hr, bankOf_of_toNat_eq hb, hk, Bool.not_eq_true']
  cases (s.context r b).inject (s.ceiling r) value.toNat <;> rfl

/-- The answer of an injection: the number of the new job, and whether it has retired within the event (R161). -/
theorem injectInto_eq (s : State) (r : Rank) (b : Bank) (row : Nat) (cls : JobClass) (c : BankContext) :
    let t := (s.modContext r b fun _ => c).acceptJob r b row cls .injected (c.countOf row)
    let stays : Prop := ∃ j ∈ t.queue.list, j.names r b row = true ∧ j.number = s.queue.nextNumber
    (stays → s.injectInto r b row cls c = t.respond .ok [s.queue.nextNumber, 0]) ∧
    (¬ stays → s.injectInto r b row cls c = t.respond .ok [s.queue.nextNumber, 1]) := by
  intro t stays
  have hstays : (t.queue.list.any fun j => j.names r b row && j.number == s.queue.nextNumber) = true ↔ stays := by
    simp only [List.any_eq_true, Bool.and_eq_true, beq_iff_eq, stays]
  have hnumber : byte s.queue.nextNumber.toNat = s.queue.nextNumber := by simp [byte]
  have hinto : s.injectInto r b row cls c = t.respond .ok [byte s.queue.nextNumber.toNat,
      byte (flagBit 0 !(t.queue.list.any fun j => j.names r b row && j.number == s.queue.nextNumber))] := rfl
  rw [hinto, hnumber]
  refine ⟨fun h => ?_, fun h => ?_⟩
  · rw [hstays.mpr h]
    rfl
  · rw [Bool.eq_false_iff.mpr (mt hstays.mp h)]
    rfl

end Inject

/-- Settles O50: the checks in the order of R161, the table by the cases of R18. -/
theorem injectJobDecided : Obligations.InjectJobDecided := by
  unfold Obligations.InjectJobDecided
  intro s r b cls rank bank kind value hr hb hk row c ceiling request enqueues fresh
  have hexec := exec_injectJob (s := s) hr hb (classOf_of_toNat_eq hk) value
  refine ⟨fun hrow => ?_, fun hrow => ⟨fun hoff => ?_, fun hon => ?_⟩⟩
  · rw [hexec, if_pos hrow]
  · rw [hexec, if_neg (Nat.not_le.mpr hrow), if_pos hoff]
  rw [if_neg (Nat.not_le.mpr hrow), if_neg (by rw [hon]; nofun)] at hexec
  have hfull (hm : c.marked row = false) (h : 16 ≤ s.heldCount) : exec request s = .next (s.reply .queueFull) := by
    rw [hexec, if_neg (Bool.eq_false_iff.mp hm), if_pos h]
  have hinject (hm : c.marked row = false) (h : s.heldCount < 16) :
      exec request s = .next ((c.inject ceiling row).elim (s.reply .tableFull) (s.injectInto r b row cls)) := by
    rw [hexec, if_neg (Bool.eq_false_iff.mp hm), if_neg (Nat.not_le.mpr h)]
  have henqueues (hm : c.marked row = false) (h : s.heldCount < 16) {c' : BankContext} {count : Nat}
      (hc : c.inject ceiling row = some c') (hcount : c'.countOf row = count) : enqueues c' count := by
    subst hcount
    obtain ⟨hstays, hgone⟩ := injectInto_eq s r b row cls c'
    have hexec' : exec request s = .next (s.injectInto r b row cls c') := by rw [hinject hm h, hc]; rfl
    exact ⟨fun hj => hexec'.trans (congrArg _ (hstays hj)), fun hj => hexec'.trans (congrArg _ (hgone hj))⟩
  refine ⟨fun e he => ⟨fun hm => ?_, fun hm => ?_, fun hm h => ?_⟩, fun hfresh => ⟨?_, fun h => ⟨?_, ?_, ?_⟩⟩⟩
  · rw [hexec, if_pos ((marked_of_find he).trans hm)]
  · exact hfull ((marked_of_find he).trans hm)
  · exact henqueues ((marked_of_find he).trans hm) h (inject_of_names (names_of_find he)) (countOf_of_find he)
  · exact hfull (marked_of_fresh hfresh)
  · intro hroom
    exact henqueues (marked_of_fresh hfresh) h (inject_of_room (names_eq_false_iff.mpr hfresh) hroom)
      (countOf_tail (fresh := { row := row, count := 0, inherited := false, mark := false }) hfresh rfl)
  · intro hsize hkept
    have hlt : ¬ c.entries.length < 12 := by omega
    rw [hinject (marked_of_fresh hfresh) h,
      inject_of_no_evictee (names_eq_false_iff.mpr hfresh) hlt (evictee_eq_none hkept)]
    rfl
  · intro before e behind hsize hl hm hc hbefore hbehind
    have hlt : ¬ c.entries.length < 12 := by omega
    have hi := inject_of_evictee (names_eq_false_iff.mpr hfresh) hlt (evictee_of_least hl hm hc hbefore hbehind)
    rw [replace_of_least hl hm hc hbefore] at hi
    refine henqueues (marked_of_fresh hfresh) h hi
      (countOf_tail (fresh := { row := row, count := e.count, inherited := true, mark := false }) (fun x hx => ?_) rfl)
    refine hfresh x ?_
    rw [hl]
    rcases List.mem_append.mp hx with hx | hx
    · exact List.mem_append_left _ hx
    · exact List.mem_append_right _ (List.mem_cons_of_mem _ hx)

end Sys2Proof.Machine
end

section
/-! ### The invariant through the management requests

Responses, parameters, the clearing of a rank, repairs, injections and the rows that only answer. -/

namespace Sys2Proof.Machine

open Sys2Proof

/-! #### Responses (R154) -/

section Response

variable {s t : State}

theorem State.Inv.respond (h : s.Inv) (code : ResponseCode) (body : List Byte) : (s.respond code body).Inv :=
  h.withMgmt (h.frame.mgmt.responded code body)

theorem State.Inv.reply (h : s.Inv) (code : ResponseCode) : (s.reply code).Inv := h.respond code []

/-- A choice between legal states. -/
theorem State.Inv.ite {c : Prop} [Decidable c] (hs : c → s.Inv) (ht : ¬ c → t.Inv) : (if c then s else t).Inv := by
  split
  · exact hs ‹_›
  · exact ht ‹_›

/-- A write whose check fails changes nothing. -/
theorem State.Inv.refusedIf (h : s.Inv) {bad : Bool} {code : ResponseCode} {d : State × ResponseCode}
    (hd : bad = false → d.1.Inv) : (s.refusedIf bad code d).1.Inv := by
  cases bad with
  | true => exact h
  | false => exact hd rfl

/-- A per-rank write (R158). -/
theorem State.Inv.writeRank (h : s.Inv) {f : Rank → State × ResponseCode} (hf : ∀ r, (f r).1.Inv) (rank : Byte) :
    (s.writeRank rank f).Inv := by
  unfold State.writeRank
  split
  · exact h.reply .range
  · exact (hf _).reply _

end Response

/-! #### Parameters (R25, R38, R39, R105, R109, R150, R160) -/

/-- A rank with other parameters, when what they bound stays within them. -/
theorem RankUnit.Legal.withParams {u : RankUnit} {r : Rank} {high : Bool} {window : Option Window} {now : Nat}
    (h : u.Legal r high window now) {p : RankParams} (hp : p.Legal) (hrows : ∀ x ∈ u.repairs, x.row < p.rows)
    {count : Nat} (hcount : count < p.windowRefreshes) (hdebt : u.debt ≤ p.debtLimit) :
    RankUnit.Legal { u with params := p, refreshCount := count } r high window now :=
  { h with
    params := hp
    repairsInside := fun x hx => ⟨hrows x hx, (h.repairsInside x hx).2⟩
    count := hcount
    debt := hdebt }

section Parameters

variable {s : State} {r : Rank}

/-- A change of one rank that keeps its state and its tables, and parameters that the tables do not tell apart. -/
theorem State.Inv.modParams (h : s.Inv) {f : RankUnit → RankUnit} (hs : (f (s.rank r)).state = (s.rank r).state)
    (hc : (f (s.rank r)).contexts = (s.rank r).contexts) (hp : (s.params r).Agree (f (s.rank r)).params)
    (hl : (f (s.rank r)).Legal r s.link.resetHigh s.engine.window s.clock.slot) : (s.modRank r f).Inv := by
  refine State.Steady.inv ⟨⟨h.frame.modRank hl, ?_, h.steady.sound.listed⟩, h.steady.staged.modRank hs⟩ h rfl
  refine h.steady.sound.jobs.congr (context_modRank hc) (fun q => ?_) rfl fun _ h => h
  rw [State.params, State.params, State.rank_modRank]
  split
  · rename_i hq
    subst hq
    exact hp
  · exact .of_eq rfl

/-- Other parameters that keep what the tables, the refresh unit and the repairs look at. -/
theorem State.Inv.setParams (h : s.Inv) {p : RankParams} (ha : (s.params r).Agree p) (hl : p.Legal)
    (hrows : ∀ x ∈ (s.rank r).repairs, x.row < p.rows) (hcount : (s.rank r).refreshCount < p.windowRefreshes)
    (hdebt : (s.rank r).debt ≤ p.debtLimit) : (s.setParams r p).Inv :=
  h.modParams rfl rfl ha ((h.frame.ranks r).withParams hl hrows hcount hdebt)

/-- Other thresholds, lengths and times (R25, R150, R160). -/
theorem State.Inv.setTimes (h : s.Inv) {p : RankParams} (hl : p.Legal)
    (hp : p = { s.params r with
      tService := p.tService, tUrgent := p.tUrgent, tCeiling := p.tCeiling, grantLen := p.grantLen
      refreshLen := p.refreshLen, stepTime := p.stepTime, coverTime := p.coverTime }) : (s.setParams r p).Inv := by
  have hr := h.frame.ranks r
  have htrack : p.track = (s.params r).track := (congrArg RankParams.track hp :)
  have hrows : p.rows = (s.params r).rows := (congrArg RankParams.rows hp :)
  have hradius : p.radius = (s.params r).radius := (congrArg RankParams.radius hp :)
  have hcount : p.windowRefreshes = (s.params r).windowRefreshes := (congrArg RankParams.windowRefreshes hp :)
  have hdebt : p.debtLimit = (s.params r).debtLimit := (congrArg RankParams.debtLimit hp :)
  refine h.setParams ⟨htrack, fun _ => hrows, fun _ => hradius⟩ hl (fun x hx => ?_) (hcount ▸ hr.count) (hdebt ▸ hr.debt)
  exact hrows ▸ (hr.repairsInside x hx).1

/-- Another geometry, written with TRACK OFF (R39). -/
theorem State.Inv.setGeometry (h : s.Inv) (hoff : (s.params r).track = false) {p : RankParams} (hl : p.Legal)
    (hrows : ∀ x ∈ (s.rank r).repairs, x.row < p.rows)
    (hp : p = { s.params r with rows := p.rows, section_ := p.section_, mask := p.mask, radius := p.radius }) :
    (s.setParams r p).Inv := by
  have hr := h.frame.ranks r
  have htrack : p.track = (s.params r).track := (congrArg RankParams.track hp :)
  have hcount : p.windowRefreshes = (s.params r).windowRefreshes := (congrArg RankParams.windowRefreshes hp :)
  have hdebt : p.debtLimit = (s.params r).debtLimit := (congrArg RankParams.debtLimit hp :)
  have hon (ht : (s.params r).track = true) : False := Bool.false_ne_true (hoff.symm.trans ht)
  exact h.setParams ⟨htrack, fun ht => (hon ht).elim, fun ht => (hon ht).elim⟩ hl hrows (hcount ▸ hr.count) (hdebt ▸ hr.debt)

/-- A value of a list of choices. -/
theorem mem_of_choice {l : List Nat} {v : Nat} (h : (!(l.contains v)) = false) : v ∈ l := by simpa using h

/-- The repaired rows of a rank lie inside it. -/
theorem State.Inv.repairRow_lt (h : s.Inv) : ∀ x ∈ (s.rank r).repairs, x.row < (s.params r).rows :=
  fun x hx => ((h.frame.ranks r).repairsInside x hx).1

variable {t : State} {rank : Byte} {value : BitVec 24}

theorem State.Inv.exec_rowsWrite (h : s.Inv) (ht : exec (.rowsWrite rank value) s = .next t) : t.Inv := by
  cases ht
  refine h.writeRank (fun r => h.refusedIf fun hoff => h.refusedIf fun hv => h.refusedIf fun hlow => ?_) rank
  obtain ⟨hmask, hrepairs⟩ := Bool.or_eq_false_iff.mp hlow
  have hrows : value.toNat = 32768 ∨ value.toNat = 65536 ∨ value.toNat = 131072 := by simpa using mem_of_choice hv
  refine h.setGeometry hoff { (h.frame.ranks r).params with rows := hrows, mask := by simpa using hmask } (fun x hx => ?_) rfl
  simpa using List.any_eq_false.mp hrepairs x hx

theorem State.Inv.exec_sectionWrite (h : s.Inv) (ht : exec (.sectionWrite rank value) s = .next t) : t.Inv := by
  cases ht
  refine h.writeRank (fun r => h.refusedIf fun hoff => h.refusedIf fun hv => ?_) rank
  have hsection : value.toNat = 512 ∨ value.toNat = 1024 ∨ value.toNat = 2048 := by simpa using mem_of_choice hv
  exact h.setGeometry hoff { (h.frame.ranks r).params with section_ := hsection } h.repairRow_lt rfl

theorem State.Inv.exec_maskWrite (h : s.Inv) (ht : exec (.maskWrite rank value) s = .next t) : t.Inv := by
  cases ht
  refine h.writeRank (fun r => h.refusedIf fun hoff => h.refusedIf fun hv => ?_) rank
  exact h.setGeometry hoff { (h.frame.ranks r).params with mask := by simpa using hv } h.repairRow_lt rfl

theorem State.Inv.exec_radiusWrite (h : s.Inv) (ht : exec (.radiusWrite rank value) s = .next t) : t.Inv := by
  cases ht
  refine h.writeRank (fun r => h.refusedIf fun hoff => h.refusedIf fun hv => ?_) rank
  have hradius : value.toNat = 1 ∨ value.toNat = 2 := by simpa using mem_of_choice hv
  exact h.setGeometry hoff { (h.frame.ranks r).params with radius := hradius } h.repairRow_lt rfl

theorem State.Inv.exec_tServiceWrite (h : s.Inv) (ht : exec (.tServiceWrite rank value) s = .next t) : t.Inv := by
  cases ht
  refine h.writeRank (fun r => h.refusedIf fun hrange => h.refusedIf fun hlow => ?_) rank
  exact h.setTimes { (h.frame.ranks r).params with
    service := outside_eq_false_iff.mp hrange, serviceUrgent := by simpa using hlow } rfl

theorem State.Inv.exec_tUrgentWrite (h : s.Inv) (ht : exec (.tUrgentWrite rank value) s = .next t) : t.Inv := by
  cases ht
  refine h.writeRank (fun r => h.refusedIf fun hrange => h.refusedIf fun hlow => ?_) rank
  obtain ⟨hservice, hceiling⟩ := Bool.or_eq_false_iff.mp hlow
  exact h.setTimes { (h.frame.ranks r).params with
    urgent := (outside_eq_false_iff.mp hrange).2
    serviceUrgent := by simpa using hservice
    urgentCeiling := by simpa using hceiling } rfl

theorem State.Inv.exec_tCeilingWrite (h : s.Inv) (ht : exec (.tCeilingWrite rank value) s = .next t) : t.Inv := by
  cases ht
  refine h.writeRank (fun r => h.refusedIf fun hrange => h.refusedIf fun hlow => ?_) rank
  exact h.setTimes { (h.frame.ranks r).params with
    ceiling := (outside_eq_false_iff.mp hrange).2, urgentCeiling := by simpa using hlow } rfl

theorem State.Inv.exec_windowRefreshesWrite (h : s.Inv) (ht : exec (.windowRefreshesWrite rank value) s = .next t) :
    t.Inv := by
  cases ht
  refine h.writeRank (fun r => h.refusedIf fun hv => ?_) rank
  have hvalue : value.toNat = 1024 ∨ value.toNat = 2048 ∨ value.toNat = 4096 ∨ value.toNat = 8192 ∨ value.toNat = 16384 := by
    simpa using mem_of_choice hv
  have hr := h.frame.ranks r
  dsimp only [State.setParams]
  rw [State.modRank_modRank]
  have hp : RankParams.Legal { s.params r with windowRefreshes := value.toNat } :=
    { hr.params with windowRefreshes := hvalue }
  have hpos : 0 < value.toNat := by omega
  exact h.modParams rfl rfl ⟨rfl, fun _ => rfl, fun _ => rfl⟩ (hr.withParams hp h.repairRow_lt hpos hr.debt)

theorem State.Inv.exec_debtLimitWrite (h : s.Inv) (ht : exec (.debtLimitWrite rank value) s = .next t) : t.Inv := by
  cases ht
  refine h.writeRank (fun r => h.refusedIf fun hrange => h.refusedIf fun hlow => ?_) rank
  have hr := h.frame.ranks r
  exact h.setParams ⟨rfl, fun _ => rfl, fun _ => rfl⟩ { hr.params with debtLimit := by simpa using hrange } h.repairRow_lt
    hr.count (by simpa using hlow)

theorem State.Inv.exec_grantLenWrite (h : s.Inv) (ht : exec (.grantLenWrite rank value) s = .next t) : t.Inv := by
  cases ht
  refine h.writeRank (fun r => h.refusedIf fun hbad => ?_) rank
  obtain ⟨hrange, hstep⟩ := Bool.or_eq_false_iff.mp hbad
  exact h.setTimes { (h.frame.ranks r).params with
    grant := outside_eq_false_iff.mp hrange, grantStep := by simpa using hstep } rfl

theorem State.Inv.exec_refreshLenWrite (h : s.Inv) (ht : exec (.refreshLenWrite rank value) s = .next t) : t.Inv := by
  cases ht
  refine h.writeRank (fun r => h.refusedIf fun hbad => ?_) rank
  obtain ⟨hrange, hstep⟩ := Bool.or_eq_false_iff.mp hbad
  exact h.setTimes { (h.frame.ranks r).params with
    refresh := outside_eq_false_iff.mp hrange, refreshStep := by simpa using hstep } rfl

theorem State.Inv.exec_stepTimeWrite (h : s.Inv) (ht : exec (.stepTimeWrite rank value) s = .next t) : t.Inv := by
  cases ht
  refine h.writeRank (fun r => h.refusedIf fun hbad => ?_) rank
  obtain ⟨hbad, hrefresh⟩ := Bool.or_eq_false_iff.mp hbad
  obtain ⟨hrange, hgrant⟩ := Bool.or_eq_false_iff.mp hbad
  exact h.setTimes { (h.frame.ranks r).params with
    step := outside_eq_false_iff.mp hrange
    grantStep := by simpa using hgrant
    refreshStep := by simpa using hrefresh } rfl

theorem State.Inv.exec_coverTimeWrite (h : s.Inv) (ht : exec (.coverTimeWrite rank value) s = .next t) : t.Inv := by
  cases ht
  refine h.writeRank (fun r => h.refusedIf fun hrange => ?_) rank
  exact h.setTimes { (h.frame.ranks r).params with cover := outside_eq_false_iff.mp hrange } rfl

theorem State.Inv.exec_stalePeriodWrite (h : s.Inv) (ht : exec (.stalePeriodWrite rank value) s = .next t) : t.Inv := by
  cases ht
  exact .ite (fun _ => h.reply .range) fun hle =>
    (h.withBands (x := { s.bands with stalePeriod := value.toNat, timer := startStale value.toNat })
      (Nat.le_of_not_lt hle)).reply .ok

theorem State.Inv.exec_refusalDistanceWrite (h : s.Inv) (ht : exec (.refusalDistanceWrite rank value) s = .next t) :
    t.Inv := by
  cases ht
  refine .ite (fun _ => h.reply .range) fun hbad => ?_
  have hrange := outside_eq_false_iff.mp (Bool.eq_false_iff.mpr hbad)
  have hr := h.frame.refusals
  exact (h.withRefusals (u := { s.refusals with distance := value.toNat }) ⟨hr.log, hr.overflow, hr.schedule⟩ hrange).reply .ok

theorem State.Inv.exec_setBand (h : s.Inv) {band : Byte} (ht : exec (.setBand band) s = .next t) : t.Inv := by
  cases ht
  split
  · rename_i hb
    exact (h.withBands (x := { s.bands with band := ⟨band.toNat, hb⟩, stale := false
                                            timer := startStale s.bands.stalePeriod }) h.frame.stalePeriod).reply .ok
  · exact h.reply .range

end Parameters

/-! #### The clearing of a rank (R159, R162) -/

section Clearing

variable {s t : State}

/-- TRACK written and the rank cleared, while no window is on it. -/
theorem State.Inv.cleared (h : s.Inv) {r : Rank} (hw : ¬ s.windowOn r = true) (track : Bool) :
    ((s.setParams r { s.params r with track := track }).discardRank r).Inv := by
  have hr := h.frame.ranks r
  have hwindow (w : Window) (hx : s.engine.window = some w) : w.rank ≠ r :=
    fun hr => hw (State.windowOn_eq_true_iff.mpr ⟨w, hx, hr⟩)
  rw [s.discardRank_setParams_track r track]
  refine State.Steady.inv (s := s) (State.Sound.restage ?_) h (restage_moves _).window
  have hne (q : Rank) (hq : q ≠ r) (g : RankUnit → RankUnit) (queue : Queue) :
      (State.modRank { s with queue := queue } r g).rank q = s.rank q :=
    State.rank_modRank_ne { s with queue := queue } g hq
  refine h.steady.sound.queueWithout hwindow (fun n m => balance_addDiscarded) rfl rfl (fun b => ?_) (fun q hq b => ?_)
    (fun q hq => ?_) (((setQueue_moves s _).frame h.frame).modRank ?_)
  · rw [State.context, State.rank_modRank_same]
    exact get_replicate _ b
  · rw [State.context, hne q hq]
    rfl
  · rw [State.params, hne q hq]
    rfl
  · have hp : RankParams.Legal { s.params r with track := track } := { hr.params with }
    exact (hr.withParams hp h.repairRow_lt hr.count hr.debt).withContexts _

theorem State.Inv.exec_trackWrite (h : s.Inv) {rank : Byte} {value : BitVec 24}
    (ht : exec (.trackWrite rank value) s = .next t) : t.Inv := by
  cases ht
  exact h.writeRank (fun r => h.refusedIf fun _ => h.refusedIf fun hw => h.cleared (Bool.eq_false_iff.mp hw) _) rank

theorem State.Inv.exec_clearRank (h : s.Inv) {rank : Byte} (ht : exec (.clearRank rank) s = .next t) : t.Inv := by
  cases ht
  split
  · exact h.reply .range
  · rename_i r _
    refine .ite (fun _ => h.reply .busy) fun hw => State.Inv.reply ?_ .ok
    have hc := h.cleared hw (s.params r).track
    rwa [s.setParams_track_self r] at hc

end Clearing

/-! #### Repairs (R44, R45) -/

section Repairs

variable {s t : State} {rank bank : Byte} {value : BitVec 24}

/-- Another repair list. -/
theorem State.Inv.setRepairs (h : s.Inv) {r : Rank} {l : List RepairRecord}
    (hl : RankUnit.RepairsLegal { s.rank r with repairs := l }) : (s.modRank r fun u => { u with repairs := l }).Inv :=
  h.modRank rfl rfl rfl { h.frame.ranks r with
    repairsSize := hl.size, repairsInside := hl.inside, repairsApart := hl.apart }

theorem State.Inv.exec_writeRepair (h : s.Inv) {spare : Byte} (ht : exec (.writeRepair rank bank value spare) s = .next t) :
    t.Inv := by
  cases ht
  split
  · rename_i r k _ _
    refine .ite (fun _ => h.reply .range) fun hinside => .ite (fun _ => h.reply .state) fun _ =>
      .ite (fun _ => h.reply .exists_) fun hclash => .ite (fun _ => h.reply .tableFull) fun hroom => State.Inv.reply ?_ .ok
    obtain ⟨hspare, hrow⟩ := not_or.mp hinside
    have hr := h.frame.ranks r
    refine h.setRepairs ⟨?_, fun x hx => ?_, ?_⟩
    · rw [List.length_append]
      exact Nat.lt_of_not_le hroom
    · rcases List.mem_append.mp hx with hx | hx
      · exact hr.repairsInside x hx
      · rw [List.mem_singleton.mp hx]
        exact ⟨Nat.lt_of_not_le hrow, Nat.lt_of_not_le hspare⟩
    · refine List.pairwise_append.mpr ⟨hr.repairsApart, List.pairwise_singleton _ _, fun x hx y hy => ?_⟩
      rw [List.mem_singleton.mp hy, RepairRecord.clashes_comm]
      exact Bool.eq_false_iff.mpr fun hc => hclash (List.any_eq_true.mpr ⟨x, hx, hc⟩)
  · exact h.reply .range

theorem State.Inv.exec_eraseRepair (h : s.Inv) (ht : exec (.eraseRepair rank bank value) s = .next t) : t.Inv := by
  cases ht
  split
  · rename_i r k _ _
    refine .ite (fun _ => h.reply .range) fun _ => .ite (fun _ => h.reply .state) fun _ => ?_
    split
    · exact h.reply .empty
    · rename_i before x behind hsplit
      obtain ⟨hl, -, -⟩ := splitFirst_spec hsplit
      have hr := h.frame.ranks r
      have hsub : (before ++ behind).Sublist (s.rank r).repairs := by
        rw [hl]
        exact List.Sublist.append_left (List.sublist_cons_self x behind) before
      refine State.Inv.reply (h.setRepairs ⟨?_, fun y hy => ?_, ?_⟩) .ok
      · exact hsub.length_le.trans hr.repairsSize
      · exact hr.repairsInside y (hsub.subset hy)
      · exact hr.repairsApart.sublist hsub
  · exact h.reply .range

end Repairs

/-! #### Injections, statistics, the log and the readouts (R18, R137, R138, R155, R161, R163) -/

section Others

variable {s t : State}

/-- The injection behind its checks keeps a legal state. -/
theorem State.Inv.injectInto (h : s.Inv) {r : Rank} {b : Bank} {row : Nat} {c : BankContext}
    (hrow : row < (s.params r).rows) (hon : (s.params r).track = true) (hm : (s.context r b).marked row = false)
    (hroom : s.heldCount < 16) (hc : (s.context r b).inject (s.ceiling r) row = some c) (cls : JobClass) :
    (s.injectInto r b row cls c).Inv := by
  have hjobs := h.steady.sound.jobs
  obtain ⟨hlegal, hrows, hnames, hmarks⟩ := inject_spec (hjobs.tables r b) hc
  have hinside : ∀ e ∈ c.entries, e.row < (s.params r).rows := by
    intro e he
    rcases hrows e he with heq | ⟨x, hx, heq⟩
    · exact heq ▸ hrow
    · exact heq ▸ hjobs.entries r b x hx
  have hunmarked : ¬ (s.context r b).MarksRow row := by
    intro hmark
    cases hf : (s.context r b).find row with
    | none =>
      obtain ⟨e, he, heq, -⟩ := hmark
      exact absurd (beq_iff_eq.mpr heq) (List.find?_eq_none.mp hf e he)
    | some e =>
      rw [marked_of_find hf] at hm
      exact absurd ((marksRow_iff_of_find (hjobs.tables r b) hf).mp hmark) (Bool.eq_false_iff.mp hm)
  have hsound : (s.modContext r b fun _ => c).Sound :=
    ⟨(modContext_moves s r b _).frame h.frame,
      hjobs.modContext r b hlegal hinside hmarks fun hoff => absurd (hoff.symm.trans hon) Bool.false_ne_true,
      h.steady.sound.listed⟩
  have hcontext : (s.modContext r b fun _ => c).context r b = c := State.context_modContext_same ..
  have hjob := hsound.acceptJob (r := r) (b := b) (row := row) hroom (hcontext.symm ▸ hnames)
    (fun hmark => hunmarked ((hmarks row).mp (hcontext ▸ hmark))) cls .injected (c.countOf row)
  exact (State.Steady.inv hjob h (acceptJob_moves ..).window).respond .ok _

theorem State.Inv.exec_injectJob (h : s.Inv) {rank bank cls : Byte} {value : BitVec 24}
    (ht : exec (.injectJob rank bank value cls) s = .next t) : t.Inv := by
  cases ht
  split
  · refine .ite (fun _ => h.reply .range) fun hrow => .ite (fun _ => h.reply .state) fun hon =>
      .ite (fun _ => h.reply .exists_) fun hm => .ite (fun _ => h.reply .queueFull) fun hroom => ?_
    split
    · exact h.reply .tableFull
    · rename_i c hc
      exact h.injectInto (Nat.lt_of_not_le hrow) (by simpa using hon) (Bool.eq_false_iff.mpr hm) (Nat.lt_of_not_le hroom) hc _
  · exact h.reply .range

theorem State.Inv.exec_clearStatistics (h : s.Inv) (ht : exec .clearStatistics s = .next t) : t.Inv := by
  cases ht
  have hsound := h.steady.sound
  have hr := h.frame.refusals
  have hbalance : Stats.Balance { Stats.zero with enqueued := BitVec.ofNat 32 s.heldCount } s.heldJobs.length := by
    rw [← heldCount_eq_length]
    simp [Stats.Balance, Stats.zero]
  have hstats : State.Inv { s with queue := { s.queue with stats :=
      { Stats.zero with enqueued := BitVec.ofNat 32 s.heldCount } } } :=
    State.Steady.inv ⟨⟨(setQueue_moves s _).frame h.frame, { hsound.jobs with balance := hbalance }, hsound.listed⟩,
      h.steady.staged⟩ h rfl
  exact (hstats.withRefusals (u := { s.refusals with overflow := 0 }) ⟨hr.log, Nat.zero_le _, hr.schedule⟩
    h.frame.distance).reply .ok

theorem State.Inv.exec_takeRefusal (h : s.Inv) (ht : exec .takeRefusal s = .next t) : t.Inv := by
  cases ht
  have hr := h.frame.refusals
  split
  · exact h.respond .empty _
  · rename_i x rest hlog
    refine State.Inv.respond (h.withRefusals (u := { s.refusals with log := rest }) ⟨?_, hr.overflow, hr.schedule⟩
      h.frame.distance) .ok _
    have hsize := hr.log
    rw [hlog] at hsize
    exact Nat.le_of_succ_le hsize

theorem State.Inv.exec_readParameter (h : s.Inv) {identifier rank : Byte}
    (ht : exec (.readParameter identifier rank) s = .next t) : t.Inv := by
  cases ht
  split
  · exact h.respond .ok _
  · split
    · exact h.reply .range
    · split
      · exact h.respond .ok _
      · exact h.reply .range

theorem State.Inv.exec_readTable (h : s.Inv) {rank bank : Byte} (ht : exec (.readTable rank bank) s = .next t) : t.Inv := by
  cases ht
  split
  · exact h.respond .ok _
  · exact h.reply .range

theorem State.Inv.exec_readRepair (h : s.Inv) {rank : Byte} (ht : exec (.readRepair rank) s = .next t) : t.Inv := by
  cases ht
  split
  · exact h.respond .ok _
  · exact h.reply .range

/-- No response is left in the buffer. -/
theorem Mgmt.Legal.emptied {m : Mgmt} (h : m.Legal) {request : Option Request} (hq : request = none ∨ request = m.request)
    (mda : List Byte) : Mgmt.Legal { m with mda := mda, request := request, response := none } where
  address := h.address
  request := fun q hx => by
    rcases hq with rfl | rfl
    · cases hx
    · obtain ⟨hbus, hincomplete, -⟩ := h.request q hx
      exact ⟨hbus, hincomplete, rfl⟩
  released := h.released
  position := nofun

theorem State.Inv.exec_responseRead (h : s.Inv) {n : Nat} (ht : exec (.responseRead n) s = .next t) : t.Inv := by
  cases ht
  exact h.withMgmt (h.frame.mgmt.emptied (.inr rfl) _)

theorem State.Inv.exec_requestDropped (h : s.Inv) {bytes : List Byte} (ht : exec (.requestDropped bytes) s = .next t) :
    t.Inv := by
  cases ht
  split
  · exact h
  · exact h.withMgmt (h.frame.mgmt.emptied (.inl rfl) _)

end Others

end Sys2Proof.Machine
end

section
/-! ### Requests and their bytes

What the data bytes of a write transaction spell, and the bytes of each request (R154, R158; spec/12, section 12.2). -/

namespace Sys2Proof.Machine

open Sys2Proof

/-! #### Three bytes and their number -/

theorem joinBytes_toNat (high middle low : Byte) :
    (joinBytes high middle low).toNat = high.toNat * 2 ^ 16 + (middle.toNat * 2 ^ 8 + low.toNat) := by
  rw [joinBytes, toNat_append_eq, toNat_append_eq]

/-- The byte of a number at a place. -/
theorem extractLsb'_eq_ofNat {w : Nat} (value : BitVec w) (k : Nat) : value.extractLsb' k 8 = BitVec.ofNat 8 (value.toNat / 2 ^ k) := by
  refine BitVec.eq_of_toNat_eq ?_
  rw [BitVec.extractLsb'_toNat, BitVec.toNat_ofNat, Nat.shiftRight_eq_div_pow]

/-- A number is what its three bytes make. -/
theorem joinBytes_extract (value : BitVec 24) :
    joinBytes (value.extractLsb' 16 8) (value.extractLsb' 8 8) (value.extractLsb' 0 8) = value := by
  refine BitVec.eq_of_toNat_eq ?_
  simp only [joinBytes_toNat, BitVec.extractLsb'_toNat, Nat.shiftRight_eq_div_pow]
  have hlt := value.isLt
  omega

/-- Three bytes are those of the number they make. -/
theorem splitBytes_joinBytes (high middle low : Byte) : splitBytes (joinBytes high middle low) = [high, middle, low] := by
  have hh := high.isLt
  have hm := middle.isLt
  have hl := low.isLt
  have hj := joinBytes_toNat high middle low
  simp only [splitBytes, extractLsb'_eq_ofNat, List.cons.injEq, and_true]
  refine ⟨BitVec.eq_of_toNat_eq ?_, BitVec.eq_of_toNat_eq ?_, BitVec.eq_of_toNat_eq ?_⟩
  · rw [BitVec.toNat_ofNat]
    omega
  · rw [BitVec.toNat_ofNat]
    omega
  · rw [BitVec.toNat_ofNat]
    omega

/-- A byte is known by its number. -/
theorem eq_ofNat_of_toNat_eq {x : Byte} {n : Nat} (h : x.toNat = n) : x = BitVec.ofNat 8 n := by
  rw [← h, BitVec.ofNat_toNat, BitVec.setWidth_eq]

/-! #### Parameter writes (R158) -/

/-- An identifier above 0FH names no parameter. -/
theorem parameterWrite_of_unknown {identifier : Byte} (h : 15 < identifier.toNat) (rank : Byte) (value : BitVec 24) :
    parameterWrite identifier rank value = .writeParameterUnknownIdentifier identifier rank value := by
  unfold parameterWrite
  split
  case h_17 => rfl
  all_goals omega

/-- The bytes of a parameter write are those of its identifier. -/
theorem parameterWrite_bytes (identifier rank : Byte) (value : BitVec 24) :
    requestBytes (parameterWrite identifier rank value) = some (writeBytes identifier rank value) ∧
      (parameterWrite identifier rank value).wellFormed = true := by
  obtain ⟨n, hn⟩ : ∃ n, identifier.toNat = n := ⟨_, rfl⟩
  by_cases h : 15 < n
  · rw [parameterWrite_of_unknown (hn ▸ h)]
    exact ⟨rfl, decide_eq_true (hn ▸ h)⟩
  · rw [eq_ofNat_of_toNat_eq hn]
    have hle : n ≤ 15 := Nat.le_of_not_lt h
    clear hn h
    interval_cases n <;> exact ⟨rfl, rfl⟩

/-- The bytes of a parameter write spell it. -/
theorem requestCommand_writeBytes (early : Bool) (identifier rank : Byte) (value : BitVec 24) :
    requestCommand early (writeBytes identifier rank value) = some (parameterWrite identifier rank value) := by
  have h : requestCommand early (writeBytes identifier rank value) = some (parameterWrite identifier rank
      (joinBytes (value.extractLsb' 16 8) (value.extractLsb' 8 8) (value.extractLsb' 0 8))) := rfl
  rw [h, joinBytes_extract]

/-! #### The requests of the defined codes -/

theorem length_eq_five {α : Type} {l : List α} : l.length = 5 ↔ ∃ a b c d e, l = [a, b, c, d, e] := by
  constructor
  · intro h
    match l, h with
    | [a, b, c, d, e], _ => exact ⟨a, b, c, d, e, rfl⟩
  · rintro ⟨a, b, c, d, e, rfl⟩
    rfl

theorem length_eq_six {α : Type} {l : List α} : l.length = 6 ↔ ∃ a b c d e f, l = [a, b, c, d, e, f] := by
  constructor
  · intro h
    match l, h with
    | [a, b, c, d, e, f], _ => exact ⟨a, b, c, d, e, f, rfl⟩
  · rintro ⟨a, b, c, d, e, f, rfl⟩
    rfl

/-- A defined code with as many operand bytes as it takes spells a request. -/
theorem exists_definedRequest (early : Bool) {code : Byte} {operands : List Byte}
    (h : requestOperands code = some operands.length) : ∃ c, definedRequest early code operands = some c := by
  unfold requestOperands at h
  split at h
  case h_16 => cases h
  all_goals
    rename_i hcode
    have hlength := (Option.some.inj h).symm
    rw [eq_ofNat_of_toNat_eq hcode]
  case h_2 | h_5 =>
    obtain ⟨a, b, rfl⟩ := List.length_eq_two.mp hlength
    exact ⟨_, rfl⟩
  case h_3 | h_11 =>
    obtain ⟨a, b, c, d, e, rfl⟩ := length_eq_five.mp hlength
    exact ⟨_, rfl⟩
  case h_4 | h_9 | h_12 =>
    obtain ⟨a, rfl⟩ := List.length_eq_one_iff.mp hlength
    exact ⟨_, rfl⟩
  case h_8 | h_10 =>
    obtain ⟨a, b, c, d, e, f, rfl⟩ := length_eq_six.mp hlength
    exact ⟨_, rfl⟩
  all_goals
    rw [List.eq_nil_of_length_eq_zero hlength]
    exact ⟨_, rfl⟩

/-- What a defined code spells has these bytes, and takes as many operand bytes as there are. -/
theorem definedRequest_spec {early : Bool} {code : Byte} {operands : List Byte} {c : Instr}
    (h : definedRequest early code operands = some c) :
    requestBytes c = some (code :: operands) ∧ c.wellFormed = true ∧ requestOperands code = some operands.length := by
  unfold definedRequest at h
  split at h
  case h_16 => cases h
  all_goals
    rename_i hcode
    have hbyte := eq_ofNat_of_toNat_eq hcode
    subst hbyte
  case h_3 =>
    split at h
    · rename_i identifier rank high middle low
      cases h
      obtain ⟨hbytes, hwell⟩ := parameterWrite_bytes identifier rank (joinBytes high middle low)
      rw [writeBytes, splitBytes_joinBytes] at hbytes
      exact ⟨hbytes, hwell, rfl⟩
    · cases h
  case h_8 | h_10 | h_11 =>
    split at h
    · cases h
      rw [requestBytes, splitBytes_joinBytes]
      exact ⟨rfl, rfl, rfl⟩
    · cases h
  all_goals
    split at h
    · cases h
      exact ⟨rfl, rfl, rfl⟩
    · cases h

/-! #### What the bytes of a transaction spell -/

section Spelling

variable {early : Bool} {code : Byte} {operands bytes : List Byte} {c : Instr}

theorem requestCommand_of_defined {n : Nat} (h : requestOperands code = some n) :
    requestCommand early (code :: operands) = definedRequest early code operands := by
  simp only [requestCommand, h]

theorem requestCommand_of_undefined (h : requestOperands code = none) :
    requestCommand early (code :: operands) = if operands = [] then some (.unknown code) else none := by
  simp only [requestCommand, h]

/-- A request has the bytes that spell it. -/
theorem requestCommand_spec (h : requestCommand early bytes = some c) : requestBytes c = some bytes ∧ c.wellFormed = true := by
  match bytes with
  | [] => cases h
  | code :: operands =>
    cases hcode : requestOperands code with
    | none =>
      rw [requestCommand_of_undefined hcode] at h
      split at h
      · rename_i hnil
        cases h
        rw [hnil]
        exact ⟨rfl, Option.isNone_iff_eq_none.mpr hcode⟩
      · cases h
    | some n =>
      rw [requestCommand_of_defined hcode] at h
      obtain ⟨hbytes, hwell, -⟩ := definedRequest_spec h
      exact ⟨hbytes, hwell⟩

/-- Bytes short of a request spell none. -/
theorem requestCommand_of_incomplete (h : requestIncomplete bytes = true) : requestCommand early bytes = none := by
  match bytes with
  | [] => rfl
  | code :: operands =>
    cases hcode : requestOperands code with
    | none => simp only [requestIncomplete, hcode, Bool.false_eq_true] at h
    | some n =>
      simp only [requestIncomplete, hcode, decide_eq_true_eq] at h
      rw [requestCommand_of_defined hcode]
      refine Option.eq_none_iff_forall_ne_some.mpr fun c hc => ?_
      obtain ⟨-, -, hlength⟩ := definedRequest_spec hc
      cases hcode.symm.trans hlength
      exact absurd h (Nat.lt_irrefl _)

/-- A whole request's bytes spell it. -/
theorem requestCommand_of_bytes (hc : c.wellFormed = true) (h : requestBytes c = some bytes) :
    requestCommand c.early bytes = some c := by
  cases c
  case trackWrite | rowsWrite | sectionWrite | maskWrite | radiusWrite | tServiceWrite | tUrgentWrite | tCeilingWrite |
      windowRefreshesWrite | debtLimitWrite | grantLenWrite | refreshLenWrite | stepTimeWrite | coverTimeWrite |
      stalePeriodWrite | refusalDistanceWrite =>
    cases h
    exact requestCommand_writeBytes ..
  case writeParameterUnknownIdentifier identifier rank value =>
    cases h
    rw [requestCommand_writeBytes, parameterWrite_of_unknown (of_decide_eq_true hc)]
  case injectJob rank bank row cls =>
    cases h
    exact congrArg (fun v => some (Instr.injectJob rank bank v cls)) (joinBytes_extract row)
  case writeRepair rank bank row spare =>
    cases h
    exact congrArg (fun v => some (Instr.writeRepair rank bank v spare)) (joinBytes_extract row)
  case eraseRepair rank bank row =>
    cases h
    exact congrArg (fun v => some (Instr.eraseRepair rank bank v)) (joinBytes_extract row)
  case unknown code =>
    cases h
    rw [requestCommand_of_undefined (Option.isNone_iff_eq_none.mp hc), if_pos rfl]
  all_goals cases h
  all_goals rfl

end Spelling

/-- The bytes of a 24-bit value as R169 lays them out. -/
theorem splitBytes_eq (value : BitVec 24) :
    splitBytes value = [BitVec.ofNat 8 (value.toNat / 2 ^ 16), BitVec.ofNat 8 (value.toNat / 2 ^ 8),
      BitVec.ofNat 8 value.toNat] := by
  simp only [splitBytes, extractLsb'_eq_ofNat, pow_zero, Nat.div_one]

/-- Settles O54: the codes and operands one by one. -/
theorem requestBytesSpellTheRequest : Obligations.RequestBytesSpellTheRequest := by
  unfold Obligations.RequestBytesSpellTheRequest
  refine ⟨fun c bytes => requestCommand_of_bytes, fun c early bytes => requestCommand_spec,
    fun early bytes => requestCommand_of_incomplete, fun early code operands h => ?_, ?_⟩
  · rw [requestCommand_of_defined h]
    exact exists_definedRequest early h
  · intro rank bank cls spare identifier band value b1 b3 writes
    have hb3 : splitBytes value = b3 := splitBytes_eq value
    have hwrite (identifier : Byte) : writeBytes identifier rank value = 3 :: identifier :: rank :: b3 := by
      rw [writeBytes, hb3]
      rfl
    refine ⟨fun k c hc => ?_, ?_, rfl, rfl, rfl, rfl, rfl, rfl, ?_, rfl, ?_, ?_, rfl, rfl, rfl, fun early => rfl⟩
    · have hlt : k < 16 := (List.getElem?_eq_some_iff.mp hc).1
      have hk : some c = some (parameterWrite (b1 k) rank value) := by
        rw [← hc]
        interval_cases k <;> rfl
      rw [Option.some.inj hk, (parameterWrite_bytes (b1 k) rank value).1, hwrite]
    · exact congrArg some (hwrite identifier)
    · rw [requestBytes, hb3]
      rfl
    · rw [requestBytes, hb3]
      rfl
    · rw [requestBytes, hb3]
      rfl

end Sys2Proof.Machine
end

section
/-! ### The invariant through every step

The events on the bus, every row, and so every step (O57, O59, O60). -/

namespace Sys2Proof.Machine

open Sys2Proof

/-! #### Every row -/

/-- Every row keeps a legal state. -/
theorem State.Inv.exec_next {s t : State} (h : s.Inv) {c : Instr} (ht : exec c s = .next t) : t.Inv := by
  cases c
  case firstBeat beat => exact h.exec_firstBeat ht
  case framingFault beat =>
    cases beat with
    | idle => cases ht; exact h.takeIdle
    | second b => exact h.exec_second rfl ht
    | invalid => cases ht; exact h.takeInvalid
  case openRow | closeBank | closeAll | read | write | refresh | sleepEnter | sleepExit | modeSet | modeGet | serviceGrant |
      undefinedOpcode => exact h.exec_second rfl ht
  case portEmit => exact h.exec_portEmit ht
  case alertPulse => exact h.exec_alertPulse ht
  case engineOpen => exact h.exec_engineOpen ht
  case engineClose => exact h.exec_engineClose ht
  case windowExpiry => exact h.exec_windowExpiry ht
  case trackingWindowClose => exact h.exec_trackingWindowClose ht
  case stalenessExpiry => exact h.exec_stalenessExpiry ht
  case coverageTick => exact h.exec_coverageTick ht
  case resetFalling => exact h.exec_resetFalling ht
  case resetRising => exact h.exec_resetRising ht
  case powerOnReset => exact State.Inv.exec_powerOnReset ht
  case status | readQueue | readStatistics => cases ht; exact h.respond .ok _
  case readParameter => exact h.exec_readParameter ht
  case trackWrite => exact h.exec_trackWrite ht
  case rowsWrite => exact h.exec_rowsWrite ht
  case sectionWrite => exact h.exec_sectionWrite ht
  case maskWrite => exact h.exec_maskWrite ht
  case radiusWrite => exact h.exec_radiusWrite ht
  case tServiceWrite => exact h.exec_tServiceWrite ht
  case tUrgentWrite => exact h.exec_tUrgentWrite ht
  case tCeilingWrite => exact h.exec_tCeilingWrite ht
  case windowRefreshesWrite => exact h.exec_windowRefreshesWrite ht
  case debtLimitWrite => exact h.exec_debtLimitWrite ht
  case grantLenWrite => exact h.exec_grantLenWrite ht
  case refreshLenWrite => exact h.exec_refreshLenWrite ht
  case stepTimeWrite => exact h.exec_stepTimeWrite ht
  case coverTimeWrite => exact h.exec_coverTimeWrite ht
  case stalePeriodWrite => exact h.exec_stalePeriodWrite ht
  case refusalDistanceWrite => exact h.exec_refusalDistanceWrite ht
  case setBand => exact h.exec_setBand ht
  case readTable => exact h.exec_readTable ht
  case takeRefusal => exact h.exec_takeRefusal ht
  case injectJob => exact h.exec_injectJob ht
  case clearRank => exact h.exec_clearRank ht
  case writeRepair => exact h.exec_writeRepair ht
  case eraseRepair => exact h.exec_eraseRepair ht
  case readRepair => exact h.exec_readRepair ht
  case clearStatistics => exact h.exec_clearStatistics ht
  case restart => exact h.exec_restart ht
  case unknown => cases ht; exact h.reply .unknown
  case responseRead => exact h.exec_responseRead ht
  case requestDropped => exact h.exec_requestDropped ht
  case writeParameterUnknownIdentifier => cases ht; exact h.reply .range

/-! #### The bus (R153 to R155) -/

section Bus

variable {s : State}

/-- A byte on the bus where the address is awaited (R153). -/
theorem busEvent_byte_of_addressing (h : s.mgmt.bus = .addressing) (value : Byte) (early : Bool) :
    busEvent (.byte value early) s = .next { s with mgmt := s.mgmt.addressByte value } := by
  simp only [busEvent, h]

/-- A byte on the bus in a write transaction whose request is not whole (R154). -/
theorem busEvent_byte_of_writing (h : s.mgmt.bus = .writing) (value : Byte) (early : Bool) :
    busEvent (.byte value early) s = s.dataByte value early := by
  simp only [busEvent, h]

/-- A byte on the bus behind a whole request (R154 c). -/
theorem busEvent_byte_of_over (h : s.mgmt.bus = .over) (value : Byte) (early : Bool) :
    busEvent (.byte value early) s = .next { s with mgmt := { s.mgmt with ack := false } } := by
  simp only [busEvent, h]

/-- A byte on the bus of a transaction that is none of the part's, or that it answers. -/
theorem busEvent_byte_of_other (ha : s.mgmt.bus ≠ .addressing) (hw : s.mgmt.bus ≠ .writing) (ho : s.mgmt.bus ≠ .over)
    (value : Byte) (early : Bool) : busEvent (.byte value early) s = .next s := by
  simp only [busEvent]
  split
  · exact absurd ‹_› ha
  · exact absurd ‹_› hw
  · exact absurd ‹_› ho
  all_goals rfl

/-- A byte returned in a read transaction (R155). -/
theorem busEvent_read_of_reading (h : s.mgmt.bus = .reading) (acknowledged : Bool) :
    busEvent (.read acknowledged) s = .next { s with mgmt := s.mgmt.sendByte acknowledged } := by
  simp only [busEvent, h]

/-- Outside a read transaction no byte is returned. -/
theorem busEvent_read_of_other (h : s.mgmt.bus ≠ .reading) (acknowledged : Bool) :
    busEvent (.read acknowledged) s = .next s := by
  simp only [busEvent]
  split
  · exact absurd ‹_› h
  all_goals rfl

variable {value : Byte} {early : Bool}

/-- The last byte of a request (R154). -/
theorem dataByte_of_some {c : Instr} (h : requestCommand early (s.mgmt.keepByte value).received = some c) :
    s.dataByte value early = exec c { s with mgmt := (s.mgmt.keepByte value).requestOver } := by
  simp only [State.dataByte, h]

/-- A byte of a request that is not its last (R154). -/
theorem dataByte_of_none (h : requestCommand early (s.mgmt.keepByte value).received = none) :
    s.dataByte value early = .next { s with mgmt := s.mgmt.keepByte value } := by
  simp only [State.dataByte, h]

end Bus

/-- Bytes that spell no request are short of one, when they are no more than a defined code takes. -/
theorem incomplete_of_none {early : Bool} {code : Byte} {operands : List Byte}
    (hle : operands = [] ∨ ∃ n, requestOperands code = some n ∧ operands.length ≤ n)
    (h : requestCommand early (code :: operands) = none) : requestIncomplete (code :: operands) = true := by
  cases hcode : requestOperands code with
  | none =>
    rw [requestCommand_of_undefined hcode] at h
    rcases hle with rfl | ⟨n, hn, -⟩
    · cases h
    · cases hcode.symm.trans hn
  | some n =>
    have hlength : operands.length ≤ n := by
      rcases hle with rfl | ⟨k, hk, hlt⟩
      · exact Nat.zero_le n
      · cases hcode.symm.trans hk
        exact hlt
    have hne : operands.length ≠ n := by
      rintro rfl
      obtain ⟨c, hc⟩ := exists_definedRequest early hcode
      rw [requestCommand_of_defined hcode] at h
      cases h.symm.trans hc
    simp only [requestIncomplete, hcode]
    exact decide_eq_true (Nat.lt_of_le_of_ne hlength hne)

namespace Mgmt.Legal

variable {m : Mgmt}

/-- Between transactions nothing is acknowledged. -/
theorem ended (h : m.Legal) (next : BusPhase) : (m.endWith next).Legal where
  address := h.address
  request := nofun
  released := fun _ => rfl
  position := fun x hx _ => by
    unfold Mgmt.endWith at hx
    dsimp only at hx
    split at hx
    · cases hx
    · exact h.position x hx ‹_›

/-- No request is being received outside a write transaction. -/
theorem request_of_bus (h : m.Legal) (hb : m.bus ≠ .writing) : m.request = none := by
  cases hq : m.request with
  | none => rfl
  | some q => exact absurd (h.request q hq).1 hb

theorem addressed (h : m.Legal) (hb : m.bus = .addressing) (value : Byte) : (m.addressByte value).Legal := by
  have hrequest (q : Request) (hq : m.request = some q) : False :=
    nomatch (h.request_of_bus (hb ▸ nofun)).symm.trans hq
  have hposition (x : Response) (hx : m.response = some x) : x.position = 0 := h.position x hx (hb ▸ nofun)
  unfold Mgmt.addressByte
  split
  · split
    · exact ⟨h.address, fun q hq => (hrequest q hq).elim, nofun, fun _ _ hne => absurd rfl hne⟩
    · exact ⟨h.address, fun q hq => (hrequest q hq).elim, nofun, fun x hx _ => hposition x hx⟩
  · exact ⟨h.address, fun q hq => (hrequest q hq).elim, fun _ => rfl, fun x hx _ => hposition x hx⟩

/-- A byte kept with the request still incomplete (R154). -/
theorem kept (h : m.Legal) (hb : m.bus = .writing) {early : Bool} {value : Byte}
    (hnone : requestCommand early (m.keepByte value).received = none) : (m.keepByte value).Legal := by
  cases hq : m.request with
  | none =>
    have hkeep : m.keepByte value =
        { m with ack := true, request := some { code := value, operands := [] }, response := none } := by
      simp only [Mgmt.keepByte, hq]
    rw [hkeep] at hnone ⊢
    refine ⟨h.address, fun q hx => ?_, fun hbus => ?_, nofun⟩
    · cases hx
      exact ⟨hb, incomplete_of_none (.inl rfl) hnone, rfl⟩
    · simp [hb] at hbus
  | some q =>
    obtain ⟨-, hincomplete, hempty⟩ := h.request q hq
    have hkeep : m.keepByte value =
        { m with ack := true, request := some { q with operands := q.operands ++ [value] } } := by
      simp only [Mgmt.keepByte, hq]
    rw [hkeep] at hnone ⊢
    refine ⟨h.address, fun x hx => ?_, fun hbus => ?_, fun x hx => nomatch hempty.symm.trans hx⟩
    · cases hx
      refine ⟨hb, incomplete_of_none (.inr ?_) hnone, hempty⟩
      cases hcode : requestOperands q.code with
      | none => simp only [requestIncomplete, hcode, Bool.false_eq_true] at hincomplete
      | some n =>
        simp only [requestIncomplete, hcode, decide_eq_true_eq] at hincomplete
        exact ⟨n, rfl, by rw [List.length_append]; exact hincomplete⟩
    · simp [hb] at hbus

/-- The whole request has been received. -/
theorem whole (h : m.Legal) (hb : m.bus = .writing) (value : Byte) : (m.keepByte value).requestOver.Legal := by
  have hposition (x : Response) (hx : m.response = some x) : x.position = 0 := h.position x hx (hb ▸ nofun)
  cases hq : m.request with
  | none =>
    simp only [Mgmt.keepByte, hq, Mgmt.requestOver]
    exact ⟨h.address, nofun, nofun, nofun⟩
  | some q =>
    simp only [Mgmt.keepByte, hq, Mgmt.requestOver]
    exact ⟨h.address, nofun, nofun, fun x hx _ => hposition x hx⟩

theorem sent (h : m.Legal) (hb : m.bus = .reading) (acknowledged : Bool) : (m.sendByte acknowledged).Legal where
  address := h.address
  request := fun _ hq => nomatch (h.request_of_bus (hb ▸ nofun)).symm.trans hq
  released := fun _ => rfl
  position := fun _ _ hne => absurd hb hne

end Mgmt.Legal

/-- Every event on the bus keeps a legal state. -/
theorem State.Inv.busEvent_next {s t : State} (h : s.Inv) {e : BusEvent} (ht : busEvent e s = .next t) : t.Inv := by
  have hm := h.frame.mgmt
  cases e with
  | start => cases ht; exact h.withMgmt (hm.ended .addressing)
  | stop => cases ht; exact h.withMgmt (hm.ended .free)
  | byte value early =>
    by_cases ha : s.mgmt.bus = .addressing
    · cases (busEvent_byte_of_addressing ha value early).symm.trans ht
      exact h.withMgmt (hm.addressed ha value)
    by_cases hw : s.mgmt.bus = .writing
    · rw [busEvent_byte_of_writing hw] at ht
      cases hc : requestCommand early (s.mgmt.keepByte value).received with
      | some c =>
        rw [dataByte_of_some hc] at ht
        exact (h.withMgmt (hm.whole hw value)).exec_next ht
      | none =>
        cases (dataByte_of_none hc).symm.trans ht
        exact h.withMgmt (hm.kept hw hc)
    by_cases ho : s.mgmt.bus = .over
    · cases (busEvent_byte_of_over ho value early).symm.trans ht
      exact h.withMgmt { hm with released := fun _ => rfl }
    · cases (busEvent_byte_of_other ha hw ho value early).symm.trans ht
      exact h
  | read acknowledged =>
    by_cases hr : s.mgmt.bus = .reading
    · cases (busEvent_read_of_reading hr acknowledged).symm.trans ht
      exact h.withMgmt (hm.sent hr acknowledged)
    · cases (busEvent_read_of_other hr acknowledged).symm.trans ht
      exact h

/-! #### Every step -/

/-- Settles O60. -/
theorem everyStepKeepsLegal : Obligations.EveryStepKeepsLegal := by
  unfold Obligations.EveryStepKeepsLegal
  intro s t h ht
  unfold step at ht
  split at ht
  · split at ht
    · cases ht
      exact h.takeIdle
    · rename_i hp e rest hw
      exact (h.withQueues s.pending rest).busEvent_next ht
  · rename_i c rest hp
    exact (h.withQueues rest s.wire).exec_next ht

/-- Settles O57, from the legal state that follows. -/
theorem stepKeepsParametersTablesLogAndPortLegal : Obligations.StepKeepsParametersTablesLogAndPortLegal := by
  unfold Obligations.StepKeepsParametersTablesLogAndPortLegal
  intro s t h ht
  have hi := everyStepKeepsLegal s t h ht
  exact ⟨hi.parameters, hi.tables, hi.refusals, hi.mgmt⟩

/-- Settles O59, from the legal state that follows. -/
theorem stepKeepsQueueMarksAndBalance : Obligations.StepKeepsQueueMarksAndBalance := by
  unfold Obligations.StepKeepsQueueMarksAndBalance
  intro s t h ht
  have hi := everyStepKeepsLegal s t h ht
  exact ⟨hi.held, hi.list, hi.staged, hi.full, hi.radius, hi.marks, hi.balance⟩

end Sys2Proof.Machine
end

section
/-! ### What waits, what is to come, and the beats on the ports

Every row completes and leaves the waiting commands and the events to come (O3). The rows but those of SECOND beats, of the engine's
steps, of a beat that leaves and of the resets leave the beats on the ports too. -/

namespace Sys2Proof.Machine

open Sys2Proof

/-! #### Nothing done to what waits and to the ports -/

/-- The waiting commands, the events to come and the beats placed on the ports are as they were. -/
structure State.Leaves (s t : State) : Prop where
  pending : t.pending = s.pending
  wire : t.wire = s.wire
  port : ∀ r, (t.rank r).port = (s.rank r).port

theorem TableMoves.leaves {s t : State} (h : TableMoves s t) : s.Leaves t := by
  obtain ⟨hpending, hwire, -⟩ := State.shell_eq_iff.mp h.shell
  exact ⟨hpending, hwire, h.port⟩

namespace State.Leaves

variable {s t u : State}

theorem refl (s : State) : s.Leaves s := ⟨rfl, rfl, fun _ => rfl⟩

theorem trans (h : s.Leaves t) (k : t.Leaves u) : s.Leaves u :=
  ⟨k.pending.trans h.pending, k.wire.trans h.wire, fun r => (k.port r).trans (h.port r)⟩

/-- What does not touch the ranks. -/
theorem of_ranks (hpending : t.pending = s.pending) (hwire : t.wire = s.wire) (hranks : t.ranks = s.ranks) : s.Leaves t :=
  ⟨hpending, hwire, fun r => by rw [State.rank, State.rank, hranks]⟩

theorem modRank {r : Rank} {f : RankUnit → RankUnit} (hf : (f (s.rank r)).port = (s.rank r).port) :
    s.Leaves (s.modRank r f) := by
  refine ⟨rfl, rfl, fun q => ?_⟩
  rw [State.rank_modRank]
  split
  · rename_i hq
    rw [hf, hq]
  · rfl

theorem thenModRank {r : Rank} {f : RankUnit → RankUnit} (h : s.Leaves t) (hf : ∀ u, (f u).port = u.port) :
    s.Leaves (t.modRank r f) := h.trans (modRank (hf _))

theorem mapRanks {f : RankUnit → RankUnit} (hf : ∀ u, (f u).port = u.port) (hpending : t.pending = s.pending)
    (hwire : t.wire = s.wire) (hranks : t.ranks = s.ranks.map f) : s.Leaves t := by
  refine ⟨hpending, hwire, fun r => ?_⟩
  rw [State.rank, hranks, PerRank.get_map, hf]
  rfl

theorem respond (h : s.Leaves t) (code : ResponseCode) (body : List Byte) : s.Leaves (t.respond code body) :=
  h.trans (.of_ranks rfl rfl rfl)

theorem reply (h : s.Leaves t) (code : ResponseCode) : s.Leaves (t.reply code) := h.respond code []

theorem restage (h : s.Leaves t) : s.Leaves t.restage := h.trans (restage_moves t).table.leaves

theorem ite {c : Prop} [Decidable c] (ht : s.Leaves t) (hu : s.Leaves u) : s.Leaves (if c then t else u) := by
  split
  · exact ht
  · exact hu

theorem setParams (r : Rank) (p : RankParams) : s.Leaves (s.setParams r p) := modRank rfl

theorem refusedIf {bad : Bool} {code : ResponseCode} {d : State × ResponseCode} (h : s.Leaves d.1) :
    s.Leaves (s.refusedIf bad code d).1 := by
  cases bad with
  | true => exact refl s
  | false => exact h

theorem writeRank {f : Rank → State × ResponseCode} (hf : ∀ r, s.Leaves (f r).1) (rank : Byte) :
    s.Leaves (s.writeRank rank f) := by
  unfold State.writeRank
  split
  · exact (refl s).reply .range
  · exact (hf _).reply _

/-- The clearing of a rank. -/
theorem discardRank (r : Rank) : s.Leaves (s.discardRank r) := by
  have hclear : s.Leaves (s.clearTables r) := modRank rfl
  refine State.Leaves.restage (hclear.trans ?_)
  exact .of_ranks rfl rfl rfl

theorem report (n : Nat) (x : Report) : s.Leaves (s.report n x) := .of_ranks rfl rfl rfl

theorem setHeld (f : Option FirstBeat) : s.Leaves (s.setHeld f) := .of_ranks rfl rfl rfl

theorem passSlot (h : s.Leaves t) : s.Leaves t.passSlot := h.trans (.of_ranks rfl rfl rfl)

/-- The end of a window and what its outcome settles (R89). -/
theorem settled (w : Window) (o : Outcome) : s.Leaves ((((s.endWindow w).pushOutcome o).settleWindow w)) := by
  have hend : s.Leaves ((s.endWindow w).pushOutcome o) := by
    have hreach : s.Leaves (s.reach w.finish) := .of_ranks rfl rfl rfl
    exact (hreach.trans (modRank (r := w.rank) (f := fun u => { u with state := .awake }) rfl)).trans (.of_ranks rfl rfl rfl)
  refine hend.trans ?_
  unfold State.settleWindow
  split
  · exact .ite (retireDone_moves _ _).leaves (.of_ranks rfl rfl rfl)
  · exact .of_ranks rfl rfl rfl
  · refine thenModRank (r := w.rank) (f := fun u => { u with debt := u.debt - 1 }) ?_ fun _ => rfl
    exact .of_ranks rfl rfl rfl

end State.Leaves

/-! #### The rows -/

/-- The row may place a beat on a port, or take beats from one. -/
def movesBeats : Instr → Bool
  | .portEmit _ => true
  | .engineOpen _ => true
  | .engineClose _ => true
  | .resetFalling => true
  | .powerOnReset _ _ => true
  | .restart _ => true
  | c => (secondBeatOf c).isSome

section Rows

variable (s : State)

theorem takeIdle_leaves : s.Leaves s.takeIdle := by
  unfold State.takeIdle
  dsimp only
  split
  · exact (State.Leaves.refl s).passSlot
  · split
    · exact (State.Leaves.refl s).passSlot
    · exact ((State.Leaves.setHeld none).trans (.report _ _)).passSlot

theorem takeInvalid_leaves : s.Leaves s.takeInvalid := by
  unfold State.takeInvalid
  dsimp only
  split
  · exact (State.Leaves.refl s).passSlot
  · split
    · exact (State.Leaves.report _ _).passSlot
    · exact ((State.Leaves.setHeld none).trans (.report _ _)).passSlot

theorem exec_firstBeat_leaves (f : FirstBeat) : ∃ t, exec (.firstBeat f) s = .next t ∧ s.Leaves t := by
  refine ⟨_, rfl, .ite (State.Leaves.refl s).passSlot ?_⟩
  split
  · exact (State.Leaves.setHeld (some f)).passSlot
  · exact ((State.Leaves.setHeld (some f)).trans (.report _ _)).passSlot

theorem exec_alertPulse_leaves : ∃ t, exec .alertPulse s = .next t ∧ s.Leaves t := by
  refine ⟨_, rfl, ?_⟩
  split
  · exact .ite (.of_ranks rfl rfl rfl) (.refl s)
  · exact .refl s

theorem exec_windowExpiry_leaves : ∃ t, exec .windowExpiry s = .next t ∧ s.Leaves t := by
  refine ⟨_, rfl, ?_⟩
  split
  · exact .refl s
  · exact .ite (State.Leaves.settled _ _).restage (.refl s)

theorem exec_resetRising_leaves : ∃ t, exec .resetRising s = .next t ∧ s.Leaves t := by
  refine ⟨_, rfl, .ite (.refl s) (State.Leaves.restage ?_)⟩
  exact .mapRanks (f := fun u => { u with state := .awake }) (fun _ => rfl) rfl rfl rfl

theorem exec_coverageTick_leaves : ∃ t, exec .coverageTick s = .next t ∧ s.Leaves t :=
  ⟨_, rfl, .mapRanks (f := fun u => { u with coverage := u.coverage.tick }) (fun _ => rfl) rfl rfl rfl⟩

theorem exec_readParameter_leaves (identifier rank : Byte) :
    ∃ t, exec (.readParameter identifier rank) s = .next t ∧ s.Leaves t := by
  refine ⟨_, rfl, ?_⟩
  split
  · exact (State.Leaves.refl s).respond .ok _
  · split
    · exact (State.Leaves.refl s).reply .range
    · split
      · exact (State.Leaves.refl s).respond .ok _
      · exact (State.Leaves.refl s).reply .range

theorem exec_windowRefreshesWrite_leaves (rank : Byte) (value : BitVec 24) :
    ∃ t, exec (.windowRefreshesWrite rank value) s = .next t ∧ s.Leaves t := by
  refine ⟨_, rfl, .writeRank (fun r => .refusedIf ?_) rank⟩
  exact State.Leaves.thenModRank (f := fun u => { u with refreshCount := 0 }) (.setParams r _) fun _ => rfl

theorem exec_setBand_leaves (band : Byte) : ∃ t, exec (.setBand band) s = .next t ∧ s.Leaves t := by
  refine ⟨_, rfl, ?_⟩
  split
  · refine State.Leaves.reply ?_ .ok
    exact .of_ranks rfl rfl rfl
  · exact (State.Leaves.refl s).reply .range

theorem exec_readTable_leaves (rank bank : Byte) : ∃ t, exec (.readTable rank bank) s = .next t ∧ s.Leaves t := by
  refine ⟨_, rfl, ?_⟩
  split
  · exact (State.Leaves.refl s).respond .ok _
  · exact (State.Leaves.refl s).reply .range

theorem exec_takeRefusal_leaves : ∃ t, exec .takeRefusal s = .next t ∧ s.Leaves t := by
  refine ⟨_, rfl, ?_⟩
  split
  · exact (State.Leaves.refl s).respond .empty _
  · refine State.Leaves.respond ?_ .ok _
    exact .of_ranks rfl rfl rfl

theorem exec_injectJob_leaves (rank bank cls : Byte) (value : BitVec 24) :
    ∃ t, exec (.injectJob rank bank value cls) s = .next t ∧ s.Leaves t := by
  have hs := State.Leaves.refl s
  refine ⟨_, rfl, ?_⟩
  split
  · refine .ite (hs.reply .range) (.ite (hs.reply .state) (.ite (hs.reply .exists_) (.ite (hs.reply .queueFull) ?_)))
    split
    · exact hs.reply .tableFull
    · exact ((modContext_moves ..).trans (acceptJob_tableMoves ..)).leaves.respond .ok _
  · exact hs.reply .range

theorem exec_clearRank_leaves (rank : Byte) : ∃ t, exec (.clearRank rank) s = .next t ∧ s.Leaves t := by
  refine ⟨_, rfl, ?_⟩
  split
  · exact (State.Leaves.refl s).reply .range
  · exact .ite ((State.Leaves.refl s).reply .busy) ((State.Leaves.discardRank _).reply .ok)

theorem exec_writeRepair_leaves (rank bank spare : Byte) (value : BitVec 24) :
    ∃ t, exec (.writeRepair rank bank value spare) s = .next t ∧ s.Leaves t := by
  have hs := State.Leaves.refl s
  refine ⟨_, rfl, ?_⟩
  split
  · exact .ite (hs.reply .range) (.ite (hs.reply .state) (.ite (hs.reply .exists_) (.ite (hs.reply .tableFull)
      (State.Leaves.reply (.modRank rfl) .ok))))
  · exact hs.reply .range

theorem exec_eraseRepair_leaves (rank bank : Byte) (value : BitVec 24) :
    ∃ t, exec (.eraseRepair rank bank value) s = .next t ∧ s.Leaves t := by
  have hs := State.Leaves.refl s
  refine ⟨_, rfl, ?_⟩
  split
  · refine .ite (hs.reply .range) (.ite (hs.reply .state) ?_)
    split
    · exact hs.reply .empty
    · exact State.Leaves.reply (.modRank rfl) .ok
  · exact hs.reply .range

theorem exec_readRepair_leaves (rank : Byte) : ∃ t, exec (.readRepair rank) s = .next t ∧ s.Leaves t := by
  refine ⟨_, rfl, ?_⟩
  split
  · exact (State.Leaves.refl s).respond .ok _
  · exact (State.Leaves.refl s).reply .range

theorem exec_requestDropped_leaves (bytes : List Byte) : ∃ t, exec (.requestDropped bytes) s = .next t ∧ s.Leaves t := by
  refine ⟨_, rfl, ?_⟩
  split
  · exact .refl s
  · exact .of_ranks rfl rfl rfl

/-- The rows that leave the beats on the ports complete, and leave what waits too. -/
theorem exec_leaves {c : Instr} (h : movesBeats c = false) : ∃ t, exec c s = .next t ∧ s.Leaves t := by
  have hs := State.Leaves.refl s
  cases c
  case firstBeat f => exact exec_firstBeat_leaves s f
  case framingFault beat =>
    cases beat with
    | idle => exact ⟨_, rfl, takeIdle_leaves s⟩
    | second b => cases h
    | invalid => exact ⟨_, rfl, takeInvalid_leaves s⟩
  case openRow | closeBank | closeAll | read | write | refresh | sleepEnter | sleepExit | modeSet | modeGet | serviceGrant |
      undefinedOpcode | portEmit | engineOpen | engineClose | resetFalling | powerOnReset | restart => cases h
  case alertPulse => exact exec_alertPulse_leaves s
  case windowExpiry => exact exec_windowExpiry_leaves s
  case trackingWindowClose r => exact ⟨_, rfl, .modRank rfl⟩
  case stalenessExpiry => exact ⟨_, rfl, .ite (.of_ranks rfl rfl rfl) hs⟩
  case coverageTick => exact exec_coverageTick_leaves s
  case resetRising => exact exec_resetRising_leaves s
  case status | readQueue | readStatistics => exact ⟨_, rfl, hs.respond .ok _⟩
  case readParameter identifier rank => exact exec_readParameter_leaves s identifier rank
  case trackWrite rank value =>
    refine ⟨_, rfl, .writeRank (fun r => .refusedIf (.refusedIf ?_)) rank⟩
    exact (State.Leaves.setParams r _).trans (.discardRank r)
  case rowsWrite rank value => exact ⟨_, rfl, .writeRank (fun r => .refusedIf (.refusedIf (.refusedIf (.setParams r _)))) rank⟩
  case sectionWrite rank value | maskWrite rank value | radiusWrite rank value | tServiceWrite rank value |
      tUrgentWrite rank value | tCeilingWrite rank value | debtLimitWrite rank value =>
    exact ⟨_, rfl, .writeRank (fun r => .refusedIf (.refusedIf (.setParams r _))) rank⟩
  case grantLenWrite rank value | refreshLenWrite rank value | stepTimeWrite rank value | coverTimeWrite rank value =>
    exact ⟨_, rfl, .writeRank (fun r => .refusedIf (.setParams r _)) rank⟩
  case windowRefreshesWrite rank value => exact exec_windowRefreshesWrite_leaves s rank value
  case stalePeriodWrite | refusalDistanceWrite =>
    refine ⟨_, rfl, .ite (hs.reply .range) (State.Leaves.reply ?_ .ok)⟩
    exact .of_ranks rfl rfl rfl
  case setBand band => exact exec_setBand_leaves s band
  case readTable rank bank => exact exec_readTable_leaves s rank bank
  case takeRefusal => exact exec_takeRefusal_leaves s
  case injectJob rank bank value cls => exact exec_injectJob_leaves s rank bank cls value
  case clearRank rank => exact exec_clearRank_leaves s rank
  case writeRepair rank bank value spare => exact exec_writeRepair_leaves s rank bank spare value
  case eraseRepair rank bank value => exact exec_eraseRepair_leaves s rank bank value
  case readRepair rank => exact exec_readRepair_leaves s rank
  case clearStatistics =>
    refine ⟨_, rfl, State.Leaves.reply ?_ .ok⟩
    exact .of_ranks rfl rfl rfl
  case unknown => exact ⟨_, rfl, hs.reply .unknown⟩
  case responseRead => exact ⟨_, rfl, .of_ranks rfl rfl rfl⟩
  case requestDropped bytes => exact exec_requestDropped_leaves s bytes
  case writeParameterUnknownIdentifier => exact ⟨_, rfl, hs.reply .range⟩

end Rows

/-! #### Every row completes (O3) -/

section Completes

variable {s : State}

theorem State.shell_refuse (n : Nat) (reason : Reason) (f : FirstBeat) (b : SecondBeat) :
    (s.refuse n reason f b).pending = s.pending ∧ (s.refuse n reason f b).wire = s.wire := by
  unfold State.refuse
  dsimp only
  split
  · obtain ⟨hpending, hwire, -⟩ := (evaluate_tableMoves (s.report n (commandReport reason f b)) f.rank f.bank (s.rowOf f b)).leaves
    exact ⟨hpending, hwire⟩
  · exact ⟨rfl, rfl⟩

/-- A SECOND beat completes. -/
theorem exec_second_completes {c : Instr} {b : SecondBeat} (hc : secondBeatOf c = some b) :
    ∃ t, exec c s = .next t ∧ t.pending = s.pending ∧ t.wire = s.wire := by
  cases hl : s.link.resetHigh with
  | false => exact ⟨_, exec_second_low hc hl, rfl, rfl⟩
  | true =>
    cases hh : s.link.held with
    | none => exact ⟨_, exec_second_alone hc hl hh, rfl, rfl⟩
    | some f =>
      cases hf : s.firstFailure f b with
      | none =>
        obtain ⟨hpending, hwire, -⟩ :=
          State.shell_eq_iff.mp (State.shell_acceptHeld s.consumed s.clock.slot f b)
        exact ⟨_, exec_accepted hc hl hh hf, hpending, hwire⟩
      | some reason => exact ⟨_, exec_refused hc hl hh hf, State.shell_refuse _ _ _ _⟩

/-- A step of the engine completes. -/
theorem exec_engineOpen_completes (early : Bool) :
    ∃ t, exec (.engineOpen early) s = .next t ∧ t.pending = s.pending ∧ t.wire = s.wire := by
  refine ⟨_, rfl, ?_⟩
  split
  · exact ⟨rfl, rfl⟩
  · split
    · exact ⟨rfl, rfl⟩
    · split
      · exact ⟨rfl, rfl⟩
      · rename_i w _ _ _ j v _
        obtain ⟨hpending, hwire, -⟩ := State.shell_eq_iff.mp
          (State.shell_openStep (s.reach (w.start + w.stepsDone * w.stepTime)) (s.instantSlot early) w j v)
        exact ⟨hpending, hwire⟩

theorem exec_engineClose_completes (early : Bool) :
    ∃ t, exec (.engineClose early) s = .next t ∧ t.pending = s.pending ∧ t.wire = s.wire := by
  refine ⟨_, rfl, ?_⟩
  split
  · exact ⟨rfl, rfl⟩
  · split
    · split
      · exact ⟨rfl, rfl⟩
      · exact ⟨rfl, rfl⟩
    · exact ⟨rfl, rfl⟩
    · exact ⟨rfl, rfl⟩

/-- RESET/ falling completes. -/
theorem exec_resetFalling_completes : ∃ t, exec .resetFalling s = .next t ∧ t.pending = s.pending ∧ t.wire = s.wire := by
  refine ⟨_, rfl, ?_⟩
  split
  · exact ⟨rfl, rfl⟩
  · exact ⟨rfl, rfl⟩

end Completes

/-- Settles O3: the rows that move beats one by one, the others by `exec_leaves`. -/
theorem everyCommandCompletes : Obligations.EveryCommandCompletes := by
  unfold Obligations.EveryCommandCompletes
  intro c s
  cases hmoves : movesBeats c with
  | false =>
    obtain ⟨t, ht, hleaves⟩ := exec_leaves s hmoves
    exact ⟨t, ht, hleaves.pending, hleaves.wire⟩
  | true =>
    cases hc : secondBeatOf c with
    | some b => exact exec_second_completes hc
    | none =>
      cases c
      case portEmit | powerOnReset | restart => exact ⟨_, rfl, rfl, rfl⟩
      case engineOpen early => exact exec_engineOpen_completes early
      case engineClose early => exact exec_engineClose_completes early
      case resetFalling => exact exec_resetFalling_completes
      all_goals simp [movesBeats, hc] at hmoves

end Sys2Proof.Machine
end

section
/-! ### The port of a rank that sleeps or is reset

A command places beats on the port of its own rank only, and an engine command on that of the window's rank, which is in SERVICE;
so a port of a rank that is ASLEEP or in RESET HOLD takes the two beats of a SLEEP EXIT and no others (O58). -/

namespace Sys2Proof.Machine

open Sys2Proof

/-! #### Other ranks -/

section Other

variable {s t : State} {r : Rank}

theorem port_modRank_ne {q : Rank} (hr : r ≠ q) (f : RankUnit → RankUnit) :
    ((s.modRank q f).rank r).port = (s.rank r).port := by
  rw [State.rank_modRank_ne _ _ hr]

/-- A change of one rank, and another engine. -/
theorem port_modRank_engine_ne {q : Rank} (hr : r ≠ q) (f : RankUnit → RankUnit) (e : Engine) :
    (State.rank { s.modRank q f with engine := e } r).port = (s.rank r).port := port_modRank_ne hr f

theorem port_restage : (s.restage.rank r).port = (s.rank r).port := (restage_moves s).table.port r

theorem port_countRefresh {q : Rank} (hr : r ≠ q) : ((s.countRefresh q).rank r).port = (s.rank r).port := by
  rw [countRefresh_eq]
  exact port_modRank_ne hr _

theorem port_openStep (m : Nat) {w : Window} (hr : r ≠ w.rank) (j : Job) (v : Nat) :
    ((s.openStep m w j v).rank r).port = (s.rank r).port := by
  rw [openStep_eq]
  exact ((countActivation_tableMoves _ _ _ _).port r).trans (port_modRank_engine_ne hr _ _)

theorem port_firstStep (m : Nat) (h : ∀ w, s.engine.window = some w → r ≠ w.rank) :
    ((s.firstStep m).rank r).port = (s.rank r).port := by
  unfold State.firstStep
  split
  · split
    · exact port_openStep m (h _ ‹_›) _ _
    · rfl
  · rfl

theorem port_startWindow {q : Rank} (hr : r ≠ q) (k : WindowKind) (p : Purpose) (n : Nat) :
    ((s.startWindow q k p n).rank r).port = (s.rank r).port :=
  port_modRank_engine_ne hr _ _

end Other

section Accepted

variable {s : State} {r : Rank} {n : Nat} {f : FirstBeat} {b : SecondBeat}

theorem port_acceptRefresh (hr : r ≠ f.rank) : ((s.acceptRefresh n f b).rank r).port = (s.rank r).port := by
  cases hmay : s.mayConvert f.rank with
  | false =>
    rw [acceptRefresh_of_not_mayConvert hmay]
    exact (port_countRefresh hr).trans (port_modRank_ne hr _)
  | true =>
    rcases ht : s.take f.rank true with ⟨t, x⟩
    have htake := (take_tableMoves ht).port r
    cases x with
    | none =>
      rw [acceptRefresh_of_take_none hmay ht]
      exact (port_countRefresh hr).trans ((port_modRank_ne hr _).trans (port_restage.trans htake))
    | some j =>
      rw [acceptRefresh_of_take_some hmay ht]
      have hwindow (w : Window) (hw : ((t.convert f.rank j).countRefresh f.rank).engine.window = some w) : r ≠ w.rank := by
        rw [countRefresh_eq] at hw
        have hw : (t.startWindow f.rank .converted (.job j) (t.params f.rank).refreshLen).restage.engine.window = some w := hw
        rw [(restage_moves _).window] at hw
        cases hw
        exact hr
      refine (port_firstStep n hwindow).trans ((port_countRefresh hr).trans ((port_modRank_ne hr _).trans ?_))
      exact port_restage.trans ((port_startWindow hr _ _ _).trans htake)

theorem port_acceptGrant (hr : r ≠ f.rank) : ((s.acceptGrant n f).rank r).port = (s.rank r).port := by
  rcases ht : s.take f.rank false with ⟨t, x⟩
  have htake := (take_tableMoves ht).port r
  have hstart (k : WindowKind) (p : Purpose) (m : Nat) : ((t.startWindow f.rank k p m).restage.rank r).port = (s.rank r).port :=
    port_restage.trans ((port_startWindow hr k p m).trans htake)
  cases x with
  | some j =>
    rw [acceptGrant_of_take_some ht]
    refine (port_firstStep n fun w hw => ?_).trans (hstart _ _ _)
    rw [(restage_moves _).window] at hw
    cases hw
    exact hr
  | none =>
    by_cases hrepay : 0 < (s.rank f.rank).debt ∧ (s.params f.rank).refreshLen ≤ (s.params f.rank).grantLen
    · rw [acceptGrant_of_repay ht hrepay, engineDrive_eq]
      exact (port_modRank_ne hr _).trans (hstart _ _ _)
    · rw [acceptGrant_of_vacant ht hrepay]
      exact hstart _ _ _

/-- An accepted SLEEP EXIT in the ports: its two beats on its own, whether the exit is covered or not. -/
theorem port_acceptSleepExit (q : Rank) : ((s.acceptSleepExit n f b).rank q).port =
    if q = f.rank then (s.rank q).forwarding n f b else (s.rank q).port := by
  cases hcov : (s.rank f.rank).covered with
  | false =>
    rw [acceptSleepExit_of_short hcov, port_restage, State.rank_modRank]
    split
    · rename_i hq
      rw [hq]
    · rfl
  | true =>
    rw [acceptSleepExit_of_covered hcov, port_restage, State.rank_modRank]
    split
    · rename_i hq
      rw [hq]
      rfl
    · rfl

/-- An accepted command places no beats on the port of another rank. -/
theorem port_acceptHeld (hr : r ≠ f.rank) : ((s.acceptHeld n f b).rank r).port = (s.rank r).port := by
  rcases opcode_cases f.opcode with h | h | h | h | h | h | h | h | h | h
  · rw [acceptHeld_of_open h]
    exact ((countActivation_tableMoves _ _ _ _).port r).trans ((port_modRank_ne hr _).trans (port_modRank_ne hr _))
  · rw [acceptHeld_of_close h, acceptClose_eq]
    exact port_modRank_ne hr _
  · rw [acceptHeld_of_closeAll h, acceptCloseAll_eq]
    exact port_modRank_ne hr _
  · rw [acceptHeld_of_access h]
    refine (port_modRank_ne hr _).trans ?_
    split
    · exact port_modRank_ne hr _
    · rfl
  · rw [acceptHeld_of_refresh h]
    exact port_acceptRefresh hr
  · rw [acceptHeld_of_sleepEnter h]
    exact (port_modRank_ne hr _).trans (port_restage.trans (port_modRank_ne hr _))
  · rw [acceptHeld_of_sleepExit h]
    rw [port_acceptSleepExit, if_neg hr]
  · rw [acceptHeld_of_mode h]
    exact port_modRank_ne hr _
  · rw [acceptHeld_of_serviceGrant h]
    exact port_acceptGrant hr
  · rw [acceptHeld_of_undefined h]

end Accepted

/-! #### The rows -/

/-- What O58 says of the port of one rank between two states. -/
def State.StillPort (s t : State) (r : Rank) : Prop :=
  (∃ gone, (s.rank r).port = gone ++ (t.rank r).port) ∨
    ∃ f b, s.link.held = some f ∧ f.opcode = opSleepExit ∧ f.rank = r ∧ (s.rank r).state = .asleep ∧
      (t.rank r).port = (s.rank r).forwarding s.clock.slot f b

section Rows

variable {s t : State} {r : Rank}

theorem State.StillPort.of_eq (h : (t.rank r).port = (s.rank r).port) : s.StillPort t r := .inl ⟨[], h.symm⟩

theorem State.StillPort.of_nil (h : (t.rank r).port = []) : s.StillPort t r :=
  .inl ⟨(s.rank r).port, by rw [h, List.append_nil]⟩

/-- A window is on a rank in SERVICE, so not on one that is ASLEEP or in RESET HOLD. -/
theorem State.Inv.ne_window (h : s.Inv) (hs : (s.rank r).state = .asleep ∨ (s.rank r).state = .resetHold) {w : Window}
    (hw : s.engine.window = some w) : r ≠ w.rank := by
  have hservice : (s.rank r).state ≠ .service := by
    rcases hs with hs | hs
    · simp [hs]
    · simp [hs]
  exact ((h.frame.ranks r).no_window hservice w hw).symm

theorem stillPort_second (h : s.Inv) (hs : (s.rank r).state = .asleep ∨ (s.rank r).state = .resetHold) {c : Instr}
    {b : SecondBeat} (hc : secondBeatOf c = some b) (ht : exec c s = .next t) : s.StillPort t r := by
  cases hl : s.link.resetHigh with
  | false =>
    cases (exec_second_low hc hl).symm.trans ht
    exact .of_eq rfl
  | true =>
    cases hh : s.link.held with
    | none =>
      cases (exec_second_alone hc hl hh).symm.trans ht
      exact .of_eq rfl
    | some f =>
      cases hf : s.firstFailure f b with
      | some reason =>
        cases (exec_refused hc hl hh hf).symm.trans ht
        refine .of_eq ?_
        unfold State.refuse
        dsimp only
        split
        · exact (evaluate_tableMoves _ _ _ _).port r
        · rfl
      | none =>
        cases (exec_accepted hc hl hh hf).symm.trans ht
        have hacc := accepts_of_passes h hl hf
        by_cases hr : r = f.rank
        · subst hr
          have hop : f.opcode = opSleepExit := by
            by_contra hop
            have hawake := hacc.awake hop
            rcases hs with hs | hs
            · cases hawake.symm.trans hs
            · cases hawake.symm.trans hs
          refine .inr ⟨f, b, hh, hop, rfl, hacc.asleep hop, ?_⟩
          rw [acceptHeld_of_sleepExit hop, port_acceptSleepExit, if_pos rfl]
          rfl
        · exact .of_eq (port_acceptHeld (s := s.consumed) hr)

theorem stillPort_portEmit {q : Rank} (ht : exec (.portEmit q) s = .next t) : s.StillPort t r := by
  cases ht
  by_cases hr : r = q
  · subst hr
    refine .inl ?_
    rw [State.rank_modRank_same]
    rcases hp : (s.rank r).port with _ | ⟨p, rest⟩
    · rw [emit_of_early (.inl hp)]
      exact ⟨[], hp.symm⟩
    · by_cases hdue : p.slot ≤ s.clock.slot
      · rw [emit_of_due hp hdue]
        exact ⟨[p], rfl⟩
      · rw [emit_of_early (.inr ⟨p, rest, hp, Nat.lt_of_not_le hdue⟩)]
        exact ⟨[], hp.symm⟩
  · exact .of_eq (port_modRank_ne hr _)

theorem stillPort_engineOpen (h : s.Inv) (hs : (s.rank r).state = .asleep ∨ (s.rank r).state = .resetHold) {early : Bool}
    (ht : exec (.engineOpen early) s = .next t) : s.StillPort t r := by
  by_cases hnone : ∀ w, s.engine.window = some w → w.stepOpen = true ∨ w.nextVictim = none
  · cases (exec_engineOpen_of_none early hnone).symm.trans ht
    exact .of_eq rfl
  · push Not at hnone
    obtain ⟨w, hw, ho, hv⟩ := hnone
    obtain ⟨⟨j, v⟩, hv⟩ := Option.ne_none_iff_exists'.mp hv
    cases (exec_engineOpen_of_next early hw (Bool.eq_false_iff.mpr ho) hv).symm.trans ht
    exact .of_eq (port_openStep _ (h.ne_window hs hw) j v)

theorem stillPort_engineClose (h : s.Inv) (hs : (s.rank r).state = .asleep ∨ (s.rank r).state = .resetHold) {early : Bool}
    (ht : exec (.engineClose early) s = .next t) : s.StillPort t r := by
  by_cases hnone : ∀ w, s.engine.window = some w → w.stepOpen = false ∨ w.purpose = .vacant ∨ w.purpose = .repay
  · cases (exec_engineClose_of_none early hnone).symm.trans ht
    exact .of_eq rfl
  · push Not at hnone
    obtain ⟨w, hw, ho, hvacant, hrepay⟩ := hnone
    cases hp : w.purpose with
    | vacant => exact absurd hp hvacant
    | repay => exact absurd hp hrepay
    | job j =>
      have ho : w.stepOpen = true := by simpa using ho
      cases (exec_engineClose_of_open early hw hp ho).symm.trans ht
      refine .of_eq ?_
      rw [closeStep_eq]
      exact port_modRank_engine_ne (h.ne_window hs hw) _ _

theorem stillPort_restart (h : s.Inv) (hs : (s.rank r).state = .asleep ∨ (s.rank r).state = .resetHold) {early : Bool}
    (ht : exec (.restart early) s = .next t) : s.StillPort t r := by
  cases ht
  have habort : ((s.abortClose (s.instantSlot early)).rank r).port = (s.rank r).port := by
    unfold State.abortClose
    split
    · rename_i w hw
      split
      · split
        · rw [engineDrive_eq]
          exact port_modRank_ne (h.ne_window hs hw) _
        · rfl
      · rfl
      · rfl
    · rfl
  refine .of_eq (Eq.trans ?_ habort)
  exact (congrArg RankUnit.port (PerRank.get_map (s.abortClose (s.instantSlot early)).ranks
    (fun u => u.restarted s.link.resetHigh) r) :)

theorem stillPort_resetFalling (ht : exec .resetFalling s = .next t) : s.StillPort t r := by
  cases hl : s.link.resetHigh with
  | false =>
    cases (exec_resetFalling_of_low hl).symm.trans ht
    exact .of_eq rfl
  | true =>
    cases (exec_resetFalling_of_high hl).symm.trans ht
    exact .of_nil (congrArg RankUnit.port (PerRank.get_map s.ranks RankUnit.resetFall r) :)

/-- Every row leaves the port of a rank that sleeps or is reset as O58 says. -/
theorem stillPort_exec (h : s.Inv) (hs : (s.rank r).state = .asleep ∨ (s.rank r).state = .resetHold) {c : Instr}
    (ht : exec c s = .next t) : s.StillPort t r := by
  cases hmoves : movesBeats c with
  | false =>
    obtain ⟨u, hu, hleaves⟩ := exec_leaves s hmoves
    cases hu.symm.trans ht
    exact .of_eq (hleaves.port r)
  | true =>
    cases hc : secondBeatOf c with
    | some b => exact stillPort_second h hs hc ht
    | none =>
      cases c
      case portEmit => exact stillPort_portEmit ht
      case engineOpen => exact stillPort_engineOpen h hs ht
      case engineClose => exact stillPort_engineClose h hs ht
      case resetFalling => exact stillPort_resetFalling ht
      case restart => exact stillPort_restart h hs ht
      case powerOnReset high straps =>
        cases ht
        refine .of_nil ?_
        match r with
        | 0 => rfl
        | 1 => rfl
      all_goals simp [movesBeats, hc] at hmoves

theorem stillPort_busEvent (h : s.Inv) (hs : (s.rank r).state = .asleep ∨ (s.rank r).state = .resetHold) {e : BusEvent}
    (ht : busEvent e s = .next t) : s.StillPort t r := by
  cases e with
  | start => cases ht; exact .of_eq rfl
  | stop => cases ht; exact .of_eq rfl
  | byte value early =>
    by_cases ha : s.mgmt.bus = .addressing
    · cases (busEvent_byte_of_addressing ha value early).symm.trans ht
      exact .of_eq rfl
    by_cases hw : s.mgmt.bus = .writing
    · rw [busEvent_byte_of_writing hw] at ht
      cases hc : requestCommand early (s.mgmt.keepByte value).received with
      | some c =>
        rw [dataByte_of_some hc] at ht
        have hi : State.Inv { s with mgmt := (s.mgmt.keepByte value).requestOver } :=
          h.withMgmt (h.frame.mgmt.whole hw value)
        exact (stillPort_exec (s := { s with mgmt := (s.mgmt.keepByte value).requestOver }) hi hs ht :)
      | none =>
        cases (dataByte_of_none hc).symm.trans ht
        exact .of_eq rfl
    by_cases ho : s.mgmt.bus = .over
    · cases (busEvent_byte_of_over ho value early).symm.trans ht
      exact .of_eq rfl
    · cases (busEvent_byte_of_other ha hw ho value early).symm.trans ht
      exact .of_eq rfl
  | read acknowledged =>
    by_cases hr : s.mgmt.bus = .reading
    · cases (busEvent_read_of_reading hr acknowledged).symm.trans ht
      exact .of_eq rfl
    · cases (busEvent_read_of_other hr acknowledged).symm.trans ht
      exact .of_eq rfl

end Rows

/-- Settles O58: the ranks, the ports and the window of the legal state that follows, and the ports of ranks that sleep or are
reset row by row. -/
theorem stepKeepsRanksLegal : Obligations.StepKeepsRanksLegal := by
  unfold Obligations.StepKeepsRanksLegal
  intro s t h ht
  have hi := everyStepKeepsLegal s t h ht
  refine ⟨hi.ranks, hi.ports, hi.window, fun r hs => ?_⟩
  unfold step at ht
  split at ht
  · split at ht
    · cases ht
      exact State.StillPort.of_eq ((takeIdle_leaves s).port r)
    · rename_i hp e rest hw
      exact stillPort_busEvent (s := { s with wire := rest }) (h.withQueues s.pending rest) hs ht
  · rename_i c rest hp
    exact stillPort_exec (s := { s with pending := rest }) (h.withQueues rest s.wire) hs ht

end Sys2Proof.Machine
end

section
/-! ### Levels, parameters and readouts

The service-request level, the answers that only read, and the response buffer (R76, R92, R155, R158, R170). -/

namespace Sys2Proof.Machine

open Sys2Proof

/-! #### The service request (R92) -/

section Service

variable {s : State} {r : Rank}

theorem serviceRequest_eq_true_iff : s.serviceRequest r = true ↔ (s.rank r).state ≠ .service ∧
    ((∃ j, s.staged = some j ∧ j.rank = r) ∨ ((s.rank r).state = .awake ∧ 0 < (s.rank r).debt)) := by
  cases hstaged : s.staged with
  | none => simp [State.serviceRequest, hstaged]
  | some j => simp [State.serviceRequest, hstaged]

/-- The job in the staged slot is eligible (R66). -/
theorem eligible_of_staged (h : s.StagedLegal) {j : Job} (hj : s.staged = some j) : s.eligible j = true := by
  have hstate : j.state = .staged := by simpa using List.find?_some hj
  have hmem : j ∈ s.queue.list := List.mem_of_find?_eq_some hj
  unfold State.StagedLegal at h
  split at h
  · exact nomatch hstate.symm.trans (h j hmem)
  · rename_i before k behind hsplit
    obtain ⟨hlist, hk, -⟩ := splitFirst_spec hsplit
    obtain ⟨-, -, hwaiting⟩ := h
    rw [hlist] at hmem
    rcases List.mem_append.mp hmem with hx | hx
    · exact nomatch hstate.symm.trans (hwaiting j (List.mem_append_left _ hx))
    · rcases List.mem_cons.mp hx with rfl | hx
      · exact hk
      · exact nomatch hstate.symm.trans (hwaiting j (List.mem_append_right _ hx))

end Service

/-- Settles O37: the level by its terms, and no eligible job on a rank that sleeps or is reset. -/
theorem serviceRequestLevels : Obligations.ServiceRequestLevels := by
  unfold Obligations.ServiceRequestLevels
  refine fun s r => ⟨serviceRequest_eq_true_iff, fun hstaged hs => Bool.eq_false_iff.mpr fun hrequest => ?_⟩
  obtain ⟨-, ⟨j, hj, hr⟩ | ⟨hawake, -⟩⟩ := serviceRequest_eq_true_iff.mp hrequest
  · have hserves := eligible_of_staged hstaged hj
    rw [State.eligible, hr] at hserves
    rcases hs with hs | hs
    · rw [hs] at hserves
      cases hserves
    · rw [hs] at hserves
      cases hserves
  · rcases hs with hs | hs
    · cases hawake.symm.trans hs
    · cases hawake.symm.trans hs

/-! #### Parameters (R158) -/

section Parameters

variable {s : State} {r : Rank} {identifier rank : Byte} {v : Nat}

theorem deviceValue_eq_none {n : Nat} (h : n ≠ 14 ∧ n ≠ 15) : s.deviceValue n = none := by
  obtain ⟨h14, h15⟩ := h
  unfold State.deviceValue
  split
  · exact absurd rfl h14
  · exact absurd rfl h15
  · rfl

theorem value_eq_none {p : RankParams} {n : Nat} (h : 14 ≤ n) : p.value n = none := by
  unfold RankParams.value
  split
  case h_15 => rfl
  all_goals omega

/-- A READ PARAMETER of a rank's parameter answers its value. -/
theorem exec_readParameter_of_rank (hd : s.deviceValue identifier.toNat = none) (hr : rank.toNat = r.val)
    (hv : (s.params r).value identifier.toNat = some v) :
    exec (.readParameter identifier rank) s = .next (s.respond .ok (parameterBody identifier rank v)) := by
  show execReadParameter identifier rank s = _
  simp only [execReadParameter, hd, rankOf_of_toNat_eq hr, hv]

/-- A READ PARAMETER of no parameter. -/
theorem exec_readParameter_of_unknown (h : 16 ≤ identifier.toNat) :
    exec (.readParameter identifier rank) s = .next (s.reply .range) := by
  have hd : s.deviceValue identifier.toNat = none := deviceValue_eq_none ⟨by omega, by omega⟩
  show execReadParameter identifier rank s = _
  cases hr : rankOf rank with
  | none => simp only [execReadParameter, hd, hr]
  | some r =>
    have hv : (s.params r).value identifier.toNat = none := value_eq_none (by omega)
    simp only [execReadParameter, hd, hr, hv]

end Parameters

/-- Settles O47: the per-rank parameters by their places, the two of the device behind them. -/
theorem readParameterAnswersValue : Obligations.ReadParameterAnswersValue := by
  unfold Obligations.ReadParameterAnswersValue
  intro s r identifier rank value v p values
  refine ⟨fun hv hr => ?_, fun h => ⟨exec_readParameter_of_unknown h, rfl⟩⟩
  have hlt : identifier.toNat < 16 := (List.getElem?_eq_some_iff.mp hv).1
  by_cases hdevice : 14 ≤ identifier.toNat
  · refine exec_readParameter_of_device (v := v) ?_ rank
    rw [← hv]
    generalize identifier.toNat = n at hlt hdevice
    interval_cases n <;> rfl
  · refine exec_readParameter_of_rank (deviceValue_eq_none ⟨by omega, by omega⟩) (hr.resolve_right hdevice) ?_
    rw [← hv]
    generalize identifier.toNat = n at hdevice
    replace hdevice := Nat.lt_of_not_le hdevice
    interval_cases n <;> rfl

/-! #### Bodies (R76, R170) -/

/-- The byte of a byte's number. -/
theorem byte_toNat (x : Byte) : byte x.toNat = x := by rw [byte, BitVec.ofNat_toNat, BitVec.setWidth_eq]

/-- The four bytes of a counter. -/
theorem bytes4_toNat (x : BitVec 32) :
    bytes4 x.toNat = [x.extractLsb' 24 8, x.extractLsb' 16 8, x.extractLsb' 8 8, x.extractLsb' 0 8] := by
  simp only [extractLsb'_eq_ofNat, pow_zero, Nat.div_one]
  rfl

/-- The four victim places of a job record, 0 where no victim is (R170 c). -/
theorem victimPlaces_eq (l : List Nat) : victimPlaces l =
    bytes3 (l.getD 0 0) ++ bytes3 (l.getD 1 0) ++ bytes3 (l.getD 2 0) ++ bytes3 (l.getD 3 0) := by
  match l with
  | [] => rfl
  | [_] => rfl
  | [_, _] => rfl
  | [_, _, _] => rfl
  | _ :: _ :: _ :: _ :: _ => rfl

theorem beq_eq_decide {α : Type} [BEq α] [LawfulBEq α] [DecidableEq α] (x y : α) : (x == y) = decide (x = y) := by
  rw [Bool.eq_iff_iff, beq_iff_eq, decide_eq_true_eq]

/-- Settles O49: each body as it is laid out, the records field by field. -/
theorem readoutBodies : Obligations.ReadoutBodies := by
  unfold Obligations.ReadoutBodies
  intro s r b rank bank hr hb b1 b2 b3 b4 bit c entry job repair st
  have hjob (j : Job) : jobBytes j = job j := by
    have hstate : 4 * j.state.bits = match j.state with
        | .waiting => 0
        | .staged => 4
        | .running => 8 := by
      cases j.state <;> rfl
    rw [jobBytes, byte_toNat, hstate, victimPlaces_eq, Job.urgent, beq_eq_decide, beq_eq_decide]
    simp only [List.append_assoc]
    rfl
  have hrepair (x : RepairRecord) : repairBytes x = repair x := by
    obtain ⟨bank, row, spare⟩ := x
    cases bank <;> rfl
  have hstats : statsBody st = b4 st.enqueued ++ b4 st.done ++ b4 st.empty ++ b4 st.covered ++ b4 st.discarded ++
      b4 st.partials ++ b4 st.converted ++ b4 st.repaid ++ b4 st.vacant := by
    simp only [statsBody, List.flatMap_cons, List.flatMap_nil, List.append_nil, bytes4_toNat, List.append_assoc]
    rfl
  refine ⟨?_, ?_, ?_, ?_⟩
  · exact exec_readTable (rankOf_of_toNat_eq hr) (bankOf_of_toNat_eq hb) s
  · show Host.Outcome.next (s.respond .ok s.queueBody) = _
    rw [State.queueBody, show jobBytes = job from funext hjob]
    cases s.active with
    | none => rfl
    | some j => simp only [Option.toList_some, List.flatMap_cons, List.flatMap_nil, List.append_nil] <;> rfl
  · show execReadRepair rank s = _
    simp only [execReadRepair, rankOf_of_toNat_eq hr, repairBody, show repairBytes = repair from funext hrepair]
    rfl
  · exact congrArg (fun body => Host.Outcome.next (s.respond .ok body)) hstats

/-! #### The response buffer (R155) -/

theorem readBytes_length (x : Option Response) (n : Nat) : (readBytes x n).length = n := by
  simp only [readBytes, List.length_append, List.length_take, List.length_replicate]
  omega

/-- What a read returns from a list of bytes, and FFH behind it. -/
theorem getElem?_take_fill {l : List Byte} {n i : Nat} (h : i < n) (x : Byte) :
    (l.take n ++ List.replicate (n - l.length) x)[i]? = some (l.getD i x) := by
  by_cases hi : i < l.length
  · rw [List.getElem?_append_left (by rw [List.length_take]; omega), List.getElem?_take_of_lt h,
      List.getElem?_eq_getElem hi, List.getD_eq_getElem _ _ hi]
  · have hle := Nat.le_of_not_lt hi
    rw [List.getElem?_append_right (by rw [List.length_take]; omega), List.length_take, List.getElem?_replicate,
      List.getD_eq_default _ _ hle, if_pos (by omega)]

/-- The number of a response code stands at its place in the table of codes. -/
theorem responseCode_spec (code : ResponseCode) : ∃ number : Nat, number ≤ 8 ∧
    [ResponseCode.ok, .busy, .range, .state, .exists_, .queueFull, .tableFull, .empty, .unknown][number]? = some code ∧
      code.byte = BitVec.ofNat 8 number := by
  cases code
  · exact ⟨0, by decide, rfl, rfl⟩
  · exact ⟨1, by decide, rfl, rfl⟩
  · exact ⟨2, by decide, rfl, rfl⟩
  · exact ⟨3, by decide, rfl, rfl⟩
  · exact ⟨4, by decide, rfl, rfl⟩
  · exact ⟨5, by decide, rfl, rfl⟩
  · exact ⟨6, by decide, rfl, rfl⟩
  · exact ⟨7, by decide, rfl, rfl⟩
  · exact ⟨8, by decide, rfl, rfl⟩

/-- Settles O53: the buffer written, read and emptied. -/
theorem responseBufferTransactions : Obligations.ResponseBufferTransactions := by
  unfold Obligations.ResponseBufferTransactions
  intro s
  refine ⟨fun _ _ => rfl, fun _ _ => rfl, fun count => ?_, fun bytes _ hne => ?_, rfl⟩
  · refine ⟨readBytes s.mgmt.response count, rfl, readBytes_length _ _, fun hnone x hx => ?_, fun code body hsome => ?_⟩
    · rw [hnone] at hx
      simp only [readBytes, List.take_nil, List.nil_append] at hx
      exact List.eq_of_mem_replicate hx
    · obtain ⟨number, hle, hcode, hbyte⟩ := responseCode_spec code
      refine ⟨number, hle, hcode, fun i hi => ?_⟩
      rw [hsome]
      refine (getElem?_take_fill hi fillByte).trans (congrArg some ?_)
      cases i with
      | zero => exact hbyte
      | succ i => rfl
  · cases bytes with
    | nil => exact absurd rfl hne
    | cons x l => rfl

end Sys2Proof.Machine
end

section
/-! ### Victim lists

The victims of a row by the offsets −1, +1, −2, +2 around its place (R47 to R51). -/

namespace Sys2Proof.Machine

open Sys2Proof

/-- The place at an offset from another, if it is not below 0. -/
def placeAt (p : Nat) (d : Int) : Option Nat := if 0 ≤ (p : Int) + d then some ((p : Int) + d).toNat else none

/-- The offsets of the candidates in their order (R49). -/
def candidateOffsets (radius : Nat) : List Int := if radius = 2 then [-1, 1, -2, 2] else [-1, 1]

theorem placeAt_of_nonneg {p : Nat} {d : Int} (h : 0 ≤ (p : Int) + d) : placeAt p d = some ((p : Int) + d).toNat := if_pos h

theorem placeAt_of_neg {p : Nat} {d : Int} (h : ¬ 0 ≤ (p : Int) + d) : placeAt p d = none := if_neg h

theorem toList_placeAt_below (p k : Nat) : (placeAt p (-(k : Int))).toList = placeBelow p k := by
  by_cases h : k ≤ p
  · rw [placeAt_of_nonneg (by omega), placeBelow, if_pos h, Option.toList_some]
    congr 1
    omega
  · rw [placeAt_of_neg (by omega), placeBelow, if_neg h, Option.toList_none]

theorem toList_placeAt_above (p k : Nat) : (placeAt p (k : Int)).toList = [p + k] := by
  rw [placeAt_of_nonneg (by omega), Option.toList_some]
  congr 1

/-- The candidates are the places at the offsets that there are. -/
theorem candidates_eq (p radius : Nat) : candidates p radius = (candidateOffsets radius).filterMap (placeAt p) := by
  have hbelow1 := toList_placeAt_below p 1
  have hbelow2 := toList_placeAt_below p 2
  have habove1 := toList_placeAt_above p 1
  have habove2 := toList_placeAt_above p 2
  rw [List.filterMap_eq_flatMap_toList, candidates, candidateOffsets]
  push_cast at hbelow1 hbelow2 habove1 habove2
  split
  · simp only [List.flatMap_cons, List.flatMap_nil, hbelow1, hbelow2, habove1, habove2, List.append_nil, List.append_assoc]
  · simp only [List.flatMap_cons, List.flatMap_nil, hbelow1, habove1, List.append_nil]

section Victims

variable {p : RankParams} {repairs : List RepairRecord} {b : Bank} {row : Nat}

theorem victimsOf_of_none (h : coveringRow repairs b row = none) :
    victimsOf p repairs b row = ordinaryVictims p repairs b row := by
  simp only [victimsOf, h]

theorem victimsOf_of_some {x : RepairRecord} (h : coveringRow repairs b row = some x) :
    victimsOf p repairs b row = spareVictims p repairs b x.spare := by
  simp only [victimsOf, h]

/-- The three tests of a candidate (R49). -/
theorem positionKept_iff {position c : Nat} : positionKept p repairs b position c = true ↔
    c < p.rows ∧ c / p.section_ = position / p.section_ ∧ coveringRow repairs b (c ^^^ p.mask) = none := by
  simp [positionKept, and_assoc]

end Victims

/-- Settles O19: the candidates by their offsets, and each offset by the tests of its place. -/
theorem victimListInOrder : Obligations.VictimListInOrder := by
  unfold Obligations.VictimListInOrder
  intro p repairs b row offsets
  refine ⟨fun hnone => ?_, fun x hsome => ?_⟩
  · rw [victimsOf_of_none hnone, ordinaryVictims, candidates_eq, List.filter_filterMap, List.map_filterMap]
    refine List.filterMap_congr fun d _ => ?_
    by_cases hd : 0 ≤ ((row ^^^ p.mask : Nat) : Int) + d
    · rw [placeAt_of_nonneg hd]
      have hkept := positionKept_iff (p := p) (repairs := repairs) (b := b) (position := row ^^^ p.mask)
        (c := (((row ^^^ p.mask : Nat) : Int) + d).toNat)
      by_cases hk : positionKept p repairs b (row ^^^ p.mask) (((row ^^^ p.mask : Nat) : Int) + d).toNat = true
      · obtain ⟨hrows, hsection, hcovering⟩ := hkept.mp hk
        rw [Option.filter_some_pos hk, if_pos ⟨hd, by omega, hsection, hcovering⟩]
        rfl
      · rw [Option.filter_some_neg (Bool.eq_false_iff.mpr hk), if_neg]
        · rfl
        · rintro ⟨-, hrows, hsection, hcovering⟩
          exact hk (hkept.mpr ⟨by omega, hsection, hcovering⟩)
    · rw [placeAt_of_neg hd, if_neg fun h => hd h.1]
      rfl
  · rw [victimsOf_of_some hsome, spareVictims, candidates_eq, List.filter_filterMap, List.filterMap_filterMap]
    refine List.filterMap_congr fun d _ => ?_
    by_cases hd : 0 ≤ (x.spare : Int) + d
    · rw [placeAt_of_nonneg hd]
      dsimp only
      by_cases hlt : ((x.spare : Int) + d).toNat < 64
      · rw [Option.filter_some_pos (p := fun t => decide (t < Config.spareRows)) (decide_eq_true hlt),
          if_pos ⟨hd, by omega⟩]
        rfl
      · rw [Option.filter_some_neg (p := fun t => decide (t < Config.spareRows)) (decide_eq_false hlt),
          if_neg (by omega)]
        rfl
    · rw [placeAt_of_neg hd, if_neg fun h => hd h.1]
      rfl

end Sys2Proof.Machine
end

section
/-! ### The status record

The 22 bytes of STATUS, part by part (R164, R170). -/

namespace Sys2Proof.Machine

open Sys2Proof

/-! #### The parts -/

theorem stagedBytes_length (j : Option Job) : (stagedBytes j).length = 7 := by cases j <;> rfl

theorem outcomeBytes_length (o : Option Outcome) : (outcomeBytes o).length = 4 := by cases o <;> rfl

/-- The fields of an outcome record (R90, R170). -/
theorem outcomeBytes_some (o : Outcome) : outcomeBytes (some o) =
    [byte (128 + o.kind.bits),
     byte ((if o.windowKind = none then 0 else 1) + (if o.windowKind = some .converted then 2 else 0) +
       (if o.job = none then 0 else 4) + 16 * o.rank.val),
     o.job.getD 0, byte (16 * o.served + o.listed)] := by
  obtain ⟨kind, windowKind, rank, job, served, listed⟩ := o
  have hjob : byte ((job.map (·.toNat)).getD 0) = job.getD 0 := by
    cases job with
    | none => rfl
    | some n => exact byte_toNat n
  have hwindow : flagBit 0 windowKind.isSome = if windowKind = none then 0 else 1 := by cases windowKind <;> rfl
  have hconverted : flagBit 1 (windowKind == some .converted) = if windowKind = some .converted then 2 else 0 := by
    rw [beq_eq_decide, flagBit]
    simp only [decide_eq_true_eq, pow_one]
  have hpresent : flagBit 2 job.isSome = if job = none then 0 else 4 := by cases job <;> rfl
  simp only [outcomeBytes, hjob, hwindow, hconverted, hpresent]

section Parts

variable {s : State}

/-- The first seven bytes. -/
def State.statusHead (s : State) : List Byte :=
  [engineByte s.engine.window, byte ((s.rank 0).state.bits + 4 * (s.rank 1).state.bits), s.flagsByte,
    byte (s.bands.band.val + 16 * s.effectiveBand.val), byte ((s.rank 0).debt + 16 * (s.rank 1).debt),
    byte s.queue.list.length, byte (s.queue.list.countP Job.urgent)]

theorem statusBody_eq : s.statusBody =
    s.statusHead ++ (stagedBytes s.staged ++ (outcomeBytes s.engine.newest ++ outcomeBytes s.engine.previous)) := by
  simp only [State.statusBody, State.statusHead, List.append_assoc]

theorem statusBody_length : s.statusBody.length = 22 := by
  simp [statusBody_eq, State.statusHead, stagedBytes_length, outcomeBytes_length]

theorem drop_statusBody : s.statusBody.drop 7 =
    stagedBytes s.staged ++ (outcomeBytes s.engine.newest ++ outcomeBytes s.engine.previous) := by
  rw [statusBody_eq]
  exact List.drop_left (l₁ := s.statusHead)

/-- Bytes 7 to 13 are the staged job's. -/
theorem statusBody_staged : (s.statusBody.drop 7).take 7 = stagedBytes s.staged := by
  rw [drop_statusBody]
  exact List.take_left' (stagedBytes_length _)

theorem drop_statusBody_outcomes : s.statusBody.drop 14 = outcomeBytes s.engine.newest ++ outcomeBytes s.engine.previous := by
  rw [← List.drop_drop (i := 7) (j := 7), drop_statusBody]
  exact List.drop_left' (stagedBytes_length _)

/-- Bytes 14 to 17 are the newest outcome's, and those behind them the previous one's. -/
theorem statusBody_newest : (s.statusBody.drop 14).take 4 = outcomeBytes s.engine.newest := by
  rw [drop_statusBody_outcomes]
  exact List.take_left' (outcomeBytes_length _)

theorem statusBody_previous : s.statusBody.drop 18 = outcomeBytes s.engine.previous := by
  rw [← List.drop_drop (i := 4) (j := 14), drop_statusBody_outcomes]
  exact List.drop_left' (outcomeBytes_length _)

/-! #### The flags (R24, R140) -/

/-- The bits of a byte put together from six flags. -/
theorem flags_getLsbD (a b c d e f : Bool) :
    let x := byte (flagBit 0 a + flagBit 1 b + flagBit 2 c + flagBit 3 d + flagBit 4 e + flagBit 5 f)
    x.getLsbD 0 = a ∧ x.getLsbD 1 = b ∧ x.getLsbD 2 = c ∧ x.getLsbD 3 = d ∧ x.getLsbD 4 = e ∧ x.getLsbD 5 = f ∧
      x.getLsbD 6 = false ∧ x.getLsbD 7 = false := by
  revert a b c d e f
  decide

theorem anySaturated_iff : s.anySaturated = true ↔ ∃ r b, (s.context r b).saturated = true := by
  simp only [State.anySaturated, RankUnit.anySaturated, Bool.or_eq_true, any_toList_eq_true_iff, Fin.exists_fin_two]
  rfl

/-- Some entry of one rank is held. -/
theorem RankUnit.anyHeld_iff {u : RankUnit} {ceiling : Nat} :
    u.anyHeld ceiling = true ↔ ∃ b : Bank, ∃ e ∈ (u.contexts.get b).entries, ceiling ≤ e.count := by
  refine any_toList_eq_true_iff.trans (exists_congr fun b => ?_)
  simp only [List.any_eq_true, Entry.held, decide_eq_true_eq]

theorem anyHeld_iff : s.anyHeld = true ↔ ∃ r b, ∃ e ∈ (s.context r b).entries, s.ceiling r ≤ e.count := by
  rw [State.anyHeld, Bool.or_eq_true, RankUnit.anyHeld_iff, RankUnit.anyHeld_iff, Fin.exists_fin_two]
  rfl

/-! #### The staged slot (R66, R77) -/

theorem staged_of_none (h : ∀ j ∈ s.queue.list, j.state ≠ .staged) : s.staged = none :=
  List.find?_eq_none.mpr fun j hj hs => h j hj (eq_of_beq hs)

theorem staged_of_first {before behind : List Job} {j : Job} (hl : s.queue.list = before ++ j :: behind)
    (hb : ∀ x ∈ before, x.state ≠ .staged) (hj : j.state = .staged) : s.staged = some j := by
  have hnone : before.find? (fun j => j.state == .staged) = none :=
    List.find?_eq_none.mpr fun x hx hs => hb x hx (eq_of_beq hs)
  rw [State.staged, hl, List.find?_append, hnone, Option.none_or]
  exact List.find?_cons_of_pos (beq_iff_eq.mpr hj)

end Parts

/-- Settles O48: the parts in their places. -/
theorem statusRecordLayout : Obligations.StatusRecordLayout := by
  unfold Obligations.StatusRecordLayout
  intro s
  refine ⟨s.statusBody, rfl, statusBody_length, ?_⟩
  intro at_ stateBits outcome
  have hstate (u : RankUnit) : u.state.bits = stateBits u := by
    simp only [stateBits]
    cases u.state <;> rfl
  have hurgent (j : Job) : flagBit 7 j.urgent = if j.cls = .urgent then 128 else 0 := by
    cases hc : j.cls <;> simp [Job.urgent, hc, flagBit]
  have houtcome (o : Option Outcome) : outcomeBytes o = outcome o := by
    match o with
    | none => rfl
    | some o =>
      rw [outcomeBytes_some]
      simp only [outcome]
      cases o.kind <;> rfl
  obtain ⟨h0, h1, h2, h3, h4, h5, h6, h7⟩ := flags_getLsbD s.bands.stale (!s.refusals.log.isEmpty)
    (decide (0 < s.refusals.overflow)) s.anySaturated s.anyHeld s.queue.full
  refine ⟨fun hw => ?_, fun w hw => ?_, ?_, ⟨h0, ?_, ?_, ?_, ?_, h5, h6, h7⟩, ?_, rfl, rfl, ?_, fun hnone => ?_,
    fun before j behind hl hb hj => ?_, statusBody_newest.trans (houtcome _), statusBody_previous.trans (houtcome _)⟩
  · show engineByte s.engine.window = 0
    rw [hw]
    rfl
  · show engineByte s.engine.window = _
    rw [hw, engineByte]
    obtain ⟨rank, kind, purpose⟩ := w
    cases kind <;> cases purpose <;> rfl
  · show byte ((s.rank 0).state.bits + 4 * (s.rank 1).state.bits) = _
    rw [hstate, hstate]
    rfl
  · exact (iff_of_eq (congrArg (· = true) h1)).trans (by simp)
  · exact (iff_of_eq (congrArg (· = true) h2)).trans decide_eq_true_iff
  · exact (iff_of_eq (congrArg (· = true) h3)).trans anySaturated_iff
  · exact (iff_of_eq (congrArg (· = true) h4)).trans anyHeld_iff
  · show byte (s.bands.band.val + 16 * s.effectiveBand.val) = _
    have hband : s.effectiveBand.val = if s.bands.stale then 3 else s.bands.band.val := by
      unfold State.effectiveBand
      split <;> rfl
    rw [hband]
    rfl
  · show byte (s.queue.list.countP Job.urgent) = _
    have hcount : s.queue.list.countP Job.urgent = (s.queue.list.filter fun j => decide (j.cls = .urgent)).length :=
      List.countP_eq_length_filter
    rw [hcount]
    rfl
  · rw [statusBody_staged, staged_of_none hnone]
    rfl
  · rw [statusBody_staged, staged_of_first hl hb hj]
    simp only [stagedBytes, byte_toNat, hurgent]
    rfl

end Sys2Proof.Machine
end

section
/-! ### Transactions on the bus

The runs of bus events of a whole transaction, from a port with none in progress, against the rows of the table (R153 to R155). -/

namespace Sys2Proof.Machine

open Sys2Proof

/-! #### Runs -/

theorem busRun_append {l m : List BusEvent} {s t : State} (h : busRun l s = .next t) :
    busRun (l ++ m) s = busRun m t := by
  induction l generalizing s with
  | nil =>
    cases h
    rfl
  | cons e l ih =>
    rw [List.cons_append]
    simp only [busRun] at h ⊢
    cases he : busEvent e s with
    | next u =>
      rw [he] at h
      exact ih h
    | fault x =>
      rw [he] at h
      cases h
    | refused x =>
      rw [he] at h
      cases h

theorem busRun_cons {e : BusEvent} {l : List BusEvent} {s t : State} (h : busEvent e s = .next t) :
    busRun (e :: l) s = busRun l t := by
  simp only [busRun, h]

theorem busRun_singleton {e : BusEvent} {s t : State} (h : busEvent e s = .next t) : busRun [e] s = .next t :=
  busRun_cons h

/-- The phase behind the condition that ends a transaction. -/
def phaseAfter (again : Bool) : BusPhase := if again then .addressing else .free

/-- The end of a transaction (R153). -/
theorem busEvent_endCondition (again : Bool) (s : State) :
    busEvent (endCondition again) s = .next (s.setMgmt (s.mgmt.endWith (phaseAfter again))) := by
  cases again <;> rfl

/-- A port with no transaction in progress. -/
structure Mgmt.Quiet (m : Mgmt) : Prop where
  bus : m.bus = .free
  ack : m.ack = false
  request : m.request = none

/-- A start from a port with no transaction in progress: the address is awaited. -/
theorem busEvent_start_of_quiet {s : State} (h : s.mgmt.Quiet) :
    busEvent .start s = .next (s.setMgmt { s.mgmt with bus := .addressing }) := by
  have hend : s.mgmt.endWith .addressing = { s.mgmt with bus := .addressing } := by
    rw [Mgmt.endWith, h.bus, if_neg nofun, ← h.ack, ← h.request]
  exact congrArg (fun m => Host.Outcome.next (s.setMgmt m)) hend

/-- The address byte carries the address in its upper seven bits, and the direction in its lowest. -/
theorem addressed_byte (address : BitVec 7) (reading : Bool) :
    (address ++ BitVec.ofBool reading).extractLsb' 1 7 = address ∧
      (address ++ BitVec.ofBool reading).getLsbD 0 = reading := by
  revert address reading
  decide

theorem addressByte_write (m : Mgmt) :
    m.addressByte (m.address ++ BitVec.ofBool false) = { m with bus := .writing, ack := true } := by
  obtain ⟨haddress, hdirection⟩ := addressed_byte m.address false
  rw [Mgmt.addressByte, if_pos haddress, hdirection]
  rfl

theorem addressByte_read (m : Mgmt) :
    m.addressByte (m.address ++ BitVec.ofBool true) = { m with bus := .reading, ack := true, mda := [] } := by
  obtain ⟨haddress, hdirection⟩ := addressed_byte m.address true
  rw [Mgmt.addressByte, if_pos haddress, hdirection]
  rfl

theorem addressByte_other {m : Mgmt} {first : Byte} (h : first.extractLsb' 1 7 ≠ m.address) :
    m.addressByte first = { m with bus := .released, ack := false } := if_neg h

/-- A start and the first byte of a transaction, from a port with none in progress. -/
theorem busRun_start {s : State} (h : s.mgmt.Quiet) {first : Byte} {early : Bool} {m : Mgmt}
    (hm : Mgmt.addressByte { s.mgmt with bus := .addressing } first = m) :
    busRun [.start, .byte first early] s = .next (s.setMgmt m) := by
  refine (busRun_cons (busEvent_start_of_quiet h)).trans (busRun_singleton ?_)
  exact (busEvent_byte_of_addressing rfl first early).trans (congrArg (fun m => Host.Outcome.next (s.setMgmt m)) hm)

/-! #### Writes (R154) -/

/-- The port in a write transaction, with these bytes of a request received. -/
def Mgmt.receiving (m : Mgmt) : List Byte → Mgmt
  | [] => { m with bus := .writing, ack := true }
  | code :: operands =>
    { m with bus := .writing, ack := true, request := some { code := code, operands := operands }, response := none }

section Receiving

variable {m : Mgmt} {got : List Byte}

theorem receiving_bus : (m.receiving got).bus = .writing := by cases got <;> rfl

theorem receiving_ack : (m.receiving got).ack = true := by cases got <;> rfl

theorem receiving_response (h : got ≠ []) : (m.receiving got).response = none := by
  cases got with
  | nil => exact absurd rfl h
  | cons code operands => rfl

theorem keepByte_receiving (h : m.request = none) (x : Byte) : (m.receiving got).keepByte x = m.receiving (got ++ [x]) := by
  cases got with
  | nil => simp only [Mgmt.keepByte, Mgmt.receiving, h, List.nil_append]
  | cons code operands => rfl

theorem received_receiving (h : m.request = none) : (m.receiving got).received = got := by
  cases got with
  | nil => simp only [Mgmt.received, Mgmt.receiving, h]
  | cons code operands => rfl

end Receiving

/-- Fewer bytes than an incomplete request has are incomplete. -/
theorem incomplete_of_append {l m : List Byte} (h : requestIncomplete (l ++ m) = true) : requestIncomplete l = true := by
  cases l with
  | nil => rfl
  | cons code operands =>
    rw [List.cons_append] at h
    cases hcode : requestOperands code with
    | none => simp only [requestIncomplete, hcode, Bool.false_eq_true] at h
    | some n =>
      simp only [requestIncomplete, hcode, decide_eq_true_eq, List.length_append] at h ⊢
      omega

/-- All the bytes of a request but the last are incomplete. -/
theorem incomplete_of_request {early : Bool} {init : List Byte} {last : Byte} {c : Instr}
    (h : requestCommand early (init ++ [last]) = some c) : requestIncomplete init = true := by
  cases init with
  | nil => rfl
  | cons code operands =>
    rw [List.cons_append] at h
    cases hcode : requestOperands code with
    | none =>
      rw [requestCommand_of_undefined hcode, if_neg (by simp)] at h
      cases h
    | some n =>
      rw [requestCommand_of_defined hcode] at h
      obtain ⟨-, -, hlength⟩ := definedRequest_spec h
      rw [hcode, Option.some.injEq, List.length_append] at hlength
      simp only [requestIncomplete, hcode, decide_eq_true_eq, hlength]
      exact Nat.lt_succ_self _

/-- The first bytes of a request are incomplete. -/
theorem incomplete_take {early : Bool} {bytes : List Byte} {c : Instr} (h : requestCommand early bytes = some c) {k : Nat}
    (hk : k < bytes.length) : requestIncomplete (bytes.take k) = true := by
  rcases List.eq_nil_or_concat' bytes with rfl | ⟨init, last, rfl⟩
  · cases h
  rw [List.length_append] at hk
  rw [List.take_append_of_le_length (Nat.le_of_lt_succ hk)]
  refine incomplete_of_append (m := init.drop k) ?_
  rw [List.take_append_drop]
  exact incomplete_of_request h

section Writes

variable {s : State} {early : Bool}

/-- The part addressed for a write. -/
theorem busRun_addressed_write (h : s.mgmt.Quiet) : busRun (s.addressed false) s = .next (s.setMgmt (s.mgmt.receiving [])) :=
  busRun_start h (addressByte_write { s.mgmt with bus := .addressing })

/-- Bytes short of a request are kept and acknowledged (R154). -/
theorem busRun_sent {m : Mgmt} (hm : m.request = none) {more got : List Byte}
    (h : requestIncomplete (got ++ more) = true) :
    busRun (sentBytes early more) (s.setMgmt (m.receiving got)) = .next (s.setMgmt (m.receiving (got ++ more))) := by
  induction more generalizing got with
  | nil => rw [List.append_nil]; rfl
  | cons x more ih =>
    rw [List.append_cons] at h ⊢
    have hnone : requestCommand early ((m.receiving got).keepByte x).received = none := by
      rw [keepByte_receiving hm, received_receiving hm]
      exact requestCommand_of_incomplete (incomplete_of_append h)
    have hevent : busEvent (.byte x early) (s.setMgmt (m.receiving got)) = .next (s.setMgmt (m.receiving (got ++ [x]))) := by
      rw [busEvent_byte_of_writing receiving_bus, dataByte_of_none hnone, State.setMgmt_mgmt, keepByte_receiving hm]
      rfl
    exact (busRun_cons hevent).trans (ih h)

/-- The bytes of a write addressed to the part that are short of a request. -/
theorem busRun_write_incomplete (h : s.mgmt.Quiet) {bytes : List Byte} (hb : requestIncomplete bytes = true) :
    busRun (s.addressed false ++ sentBytes early bytes) s = .next (s.setMgmt (s.mgmt.receiving bytes)) :=
  (busRun_append (busRun_addressed_write h)).trans (busRun_sent h.request hb)

/-- The last byte of a request runs its row, on the port with the request received. -/
theorem busRun_write_whole (h : s.mgmt.Quiet) {bytes : List Byte} {c : Instr} (hc : requestCommand early bytes = some c) :
    ∃ m : Mgmt, m.bus = .over ∧ m.ack = true ∧ m.address = s.mgmt.address ∧ m.mda = s.mgmt.mda ∧
      ∀ t, exec c (s.setMgmt m) = .next t → busRun (s.addressed false ++ sentBytes early bytes) s = .next t := by
  rcases List.eq_nil_or_concat' bytes with rfl | ⟨init, last, rfl⟩
  · cases hc
  have hinit := incomplete_of_request hc
  refine ⟨(s.mgmt.receiving (init ++ [last])).requestOver, rfl, receiving_ack, ?_, ?_, fun t ht => ?_⟩
  · cases init <;> rfl
  · cases init <;> rfl
  · have hlast : requestCommand early ((s.mgmt.receiving init).keepByte last).received = some c := by
      rwa [keepByte_receiving h.request, received_receiving h.request]
    rw [sentBytes, List.map_append, ← List.append_assoc]
    refine (busRun_append (busRun_write_incomplete h hinit)).trans (busRun_singleton ?_)
    rw [busEvent_byte_of_writing receiving_bus, dataByte_of_some hlast, State.setMgmt_mgmt, keepByte_receiving h.request]
    exact ht

/-- Bytes behind a whole request are not acknowledged and change nothing else (R154 c). -/
theorem busRun_extra (hb : s.mgmt.bus = .over) (extra : List Byte) : busRun (sentBytes early extra) s =
    .next (if extra = [] then s else s.setMgmt { s.mgmt with ack := false }) := by
  induction extra generalizing s with
  | nil => rfl
  | cons x extra ih =>
    refine (busRun_cons (busEvent_byte_of_over hb x early)).trans ((ih (s := { s with mgmt := { s.mgmt with ack := false } }) hb).trans ?_)
    rw [if_neg (List.cons_ne_nil x extra)]
    split <;> rfl

/-- What a request leaves, and what a transaction ends with, is what its row leaves. -/
theorem ended_respond (h : s.mgmt.Quiet) {t : State} {m : Mgmt} (hb : m.bus ≠ .reading) (ha : m.address = s.mgmt.address)
    (hmda : m.mda = s.mgmt.mda) (code : ResponseCode) (body : List Byte) (again : Bool) :
    ((t.setMgmt m).respond code body).setMgmt (((t.setMgmt m).respond code body).mgmt.endWith (phaseAfter again)) =
      ((t.setMgmt s.mgmt).respond code body).afterTransaction again := by
  obtain ⟨address, request, response, bus, ack, mda⟩ := m
  subst ha hmda
  have hb : bus ≠ .reading := hb
  simp only [State.respond, State.setMgmt, State.afterTransaction, Mgmt.endWith, hb, if_false, h.ack, phaseAfter]

/-- A write addressed to the part that carries a whole request. -/
theorem busRun_request (h : s.mgmt.Quiet) {c : Instr} {bytes : List Byte} (hc : requestCommand early bytes = some c) :
    ∃ t, exec c s = .next t ∧ ∃ u, busRun (s.addressed false ++ sentBytes early bytes) s = .next u ∧
      u.mgmt.bus = .over ∧ u.mgmt.ack = true ∧
        ∀ (ack again : Bool), (u.setMgmt { u.mgmt with ack := ack }).setMgmt (u.mgmt.endWith (phaseAfter again)) =
          t.afterTransaction again := by
  obtain ⟨m, hbus, hack, haddress, hmda, hrun⟩ := busRun_write_whole h hc
  obtain ⟨t, code, body, -, ht⟩ := request_responds c bytes (requestCommand_spec hc).1 s
  refine ⟨_, ht s.mgmt, _, hrun _ (ht m), hbus, hack, fun ack again => ?_⟩
  exact ended_respond h (by rw [hbus]; nofun) haddress hmda code body again

end Writes

/-! #### Reads (R155) -/

/-- The bytes a list still holds, and FFH behind them. -/
def filled (l : List Byte) (n : Nat) : List Byte := l.take n ++ List.replicate (n - l.length) fillByte

theorem filled_succ (l : List Byte) (n : Nat) : filled l (n + 1) = filled l n ++ filled (l.drop n) 1 := by
  by_cases h : n < l.length
  · have hdrop : 1 ≤ (l.drop n).length := by
      rw [List.length_drop]
      omega
    rw [filled, filled, filled, Nat.sub_eq_zero_of_le h, Nat.sub_eq_zero_of_le (Nat.le_of_lt h),
      Nat.sub_eq_zero_of_le hdrop, List.take_add]
    simp
  · have hle := Nat.le_of_not_lt h
    rw [filled, filled, filled, List.drop_eq_nil_of_le hle, List.take_of_length_le (Nat.le_succ_of_le hle),
      List.take_of_length_le hle, Nat.succ_sub hle, List.replicate_succ']
    simp

/-- A response read `n` bytes further. -/
def advance (n : Nat) (x : Option Response) : Option Response := x.map fun y => { y with position := y.position + n }

theorem readBytes_succ (x : Option Response) (n : Nat) :
    readBytes x (n + 1) = readBytes x n ++ readBytes (advance n x) 1 := by
  cases x with
  | none => exact filled_succ [] n |>.trans (by rw [List.drop_nil]; rfl)
  | some y =>
    have hrest : Response.rest { y with position := y.position + n } = y.rest.drop n := by
      rw [Response.rest, Response.rest, List.drop_drop]
    refine (filled_succ y.rest n).trans ?_
    rw [← hrest]
    rfl

/-- The port in a read transaction, with `n` bytes returned. -/
def Mgmt.sending (m : Mgmt) (n : Nat) : Mgmt :=
  { m with bus := .reading, ack := decide (n = 0), mda := readBytes m.response n, response := advance n m.response }

theorem sending_zero (m : Mgmt) : m.sending 0 = { m with bus := .reading, ack := true, mda := [] } := by
  have hnone : readBytes m.response 0 = [] := List.eq_nil_of_length_eq_zero (readBytes_length _ 0)
  have hsame : advance 0 m.response = m.response := by cases m.response <;> rfl
  rw [Mgmt.sending, hnone, hsame]
  rfl

theorem sendByte_sending (m : Mgmt) (n : Nat) : (m.sending n).sendByte true = m.sending (n + 1) := by
  have hadvance : advance (n + 1) m.response = advance 1 (advance n m.response) := by
    cases m.response <;> rfl
  simp only [Mgmt.sending, readBytes_succ m.response n, hadvance]
  rfl

section Reads

variable {s : State}

theorem busRun_addressed_read (h : s.mgmt.Quiet) : busRun (s.addressed true) s = .next (s.setMgmt (s.mgmt.sending 0)) := by
  rw [sending_zero]
  exact busRun_start h (addressByte_read { s.mgmt with bus := .addressing })

theorem busRun_reads (m : Mgmt) (taken n : Nat) : busRun (List.replicate taken (.read true)) (s.setMgmt (m.sending n)) =
    .next (s.setMgmt (m.sending (n + taken))) := by
  induction taken generalizing n with
  | zero => rfl
  | succ taken ih =>
    have hevent : busEvent (.read true) (s.setMgmt (m.sending n)) = .next (s.setMgmt (m.sending (n + 1))) := by
      rw [busEvent_read_of_reading rfl, State.setMgmt_mgmt, sendByte_sending]
      rfl
    rw [List.replicate_succ]
    refine (busRun_cons hevent).trans ((ih (n + 1)).trans ?_)
    rw [Nat.add_assoc, Nat.add_comm 1]

/-- A read addressed to the part, up to the end of its transaction. -/
theorem busRun_read (h : s.mgmt.Quiet) (taken : Nat) (last again : Bool) :
    busRun (s.addressed true ++ List.replicate taken (.read true) ++ [.read last, endCondition again]) s =
      .next (State.afterTransaction { s with mgmt := { s.mgmt with mda := readBytes s.mgmt.response (taken + 1)
                                                                   response := none } } again) := by
  have hreads := (busRun_append (m := List.replicate taken (.read true)) (busRun_addressed_read h)).trans
    (busRun_reads s.mgmt taken 0)
  refine (busRun_append hreads).trans ((busRun_cons (busEvent_read_of_reading rfl last)).trans
    ((busRun_singleton (busEvent_endCondition again _)).trans ?_))
  rw [Nat.zero_add, readBytes_succ]
  simp only [State.setMgmt, State.afterTransaction, Mgmt.endWith, Mgmt.sendByte, Mgmt.sending, if_true, h.ack, h.request,
    phaseAfter]

/-! #### Transactions that are none of the part's (R153) -/

theorem busRun_released (hb : s.mgmt.bus = .released) {l : List BusEvent} (hstart : .start ∉ l) (hstop : .stop ∉ l) :
    busRun l s = .next s := by
  induction l with
  | nil => rfl
  | cons e l ih =>
    have hevent : busEvent e s = .next s := by
      cases e with
      | start => exact absurd List.mem_cons_self hstart
      | stop => exact absurd List.mem_cons_self hstop
      | byte value early => exact busEvent_byte_of_other (by simp [hb]) (by simp [hb]) (by simp [hb]) value early
      | read acknowledged => exact busEvent_read_of_other (by simp [hb]) acknowledged
    exact (busRun_cons hevent).trans
      (ih (fun h => hstart (List.mem_cons_of_mem _ h)) fun h => hstop (List.mem_cons_of_mem _ h))

/-- A transaction with another address. -/
theorem busRun_other (h : s.mgmt.Quiet) {first : Byte} (hfirst : first.extractLsb' 1 7 ≠ s.mgmt.address)
    {l : List BusEvent} (hstart : .start ∉ l) (hstop : .stop ∉ l) (early : Bool) :
    busRun ([.start, .byte first early] ++ l) s = .next (s.setMgmt { s.mgmt with bus := .released }) := by
  have haddress : Mgmt.addressByte { s.mgmt with bus := .addressing } first = { s.mgmt with bus := .released } :=
    (addressByte_other (m := { s.mgmt with bus := .addressing }) hfirst).trans (by rw [← h.ack])
  exact (busRun_append (busRun_start h haddress)).trans (busRun_released rfl hstart hstop)

end Reads

/-- The general call is not the part's address (R153). -/
theorem address_ne_zero {m : Mgmt} (h : m.Legal) : m.address ≠ 0 := by
  intro hz
  have hlow := h.address.1
  rw [hz] at hlow
  exact absurd hlow (by decide)

/-- Settles O55: a whole write by its last byte, a short one byte by byte, a read byte by byte, and those with another address. -/
theorem busTransactionsAreTheirRows : Obligations.BusTransactionsAreTheirRows := by
  unfold Obligations.BusTransactionsAreTheirRows
  intro s again hbus hack hrequest
  have h : s.mgmt.Quiet := ⟨hbus, hack, hrequest⟩
  have hends (u : State) : busRun [endCondition again] u = .next (u.setMgmt (u.mgmt.endWith (phaseAfter again))) :=
    busRun_singleton (busEvent_endCondition again u)
  refine ⟨fun c bytes extra hc hb => ?_, fun bytes early hb => ⟨?_, ?_⟩, fun taken last => ⟨⟨_, busRun_addressed_read h, rfl⟩,
    _, rfl, busRun_read h taken last again⟩, fun first l hfirst hstart hstop => ?_, fun hlegal first hz he => ?_⟩
  · intro sent
    have hcommand := requestCommand_of_bytes hc hb
    obtain ⟨t, ht, u, hu, hover, hacked, hended⟩ := busRun_request h hcommand
    have hextra := (busRun_append (m := sentBytes false extra) hu).trans (busRun_extra hover extra)
    refine ⟨⟨t, ht, ?_⟩, fun k hk => ?_, fun hne => ?_⟩
    · refine (busRun_append hextra).trans ((hends _).trans (congrArg Host.Outcome.next ?_))
      split
      · exact hended u.mgmt.ack again
      · exact hended false again
    · rcases Nat.lt_or_eq_of_le hk with hlt | rfl
      · have hincomplete := incomplete_take hcommand hlt
        refine ⟨s.setMgmt (s.mgmt.receiving (bytes.take k)), ?_, receiving_ack, fun hpos _ => receiving_response ?_⟩
        · rw [← busRun_write_incomplete h (early := c.early) hincomplete]
          simp only [sent, sentBytes, List.map_take]
        · rw [Ne, List.take_eq_nil_iff]
          rintro (rfl | rfl)
          · exact absurd hpos (Nat.lt_irrefl 0)
          · cases hcommand
      · refine ⟨u, ?_, hacked, fun _ hlt => absurd hlt (Nat.lt_irrefl _)⟩
        rw [← hu]
        simp only [sent, sentBytes, List.take_of_length_le, List.length_map, le_refl]
    · refine ⟨_, hextra, ?_⟩
      rw [if_neg hne]
      rfl
  · have hrun := (busRun_append (m := [endCondition again]) (busRun_write_incomplete h (early := early) hb)).trans (hends _)
    cases bytes with
    | nil =>
      refine ⟨_, rfl, hrun.trans (congrArg Host.Outcome.next ?_)⟩
      simp only [State.setMgmt, State.afterTransaction, Mgmt.endWith, Mgmt.receiving, reduceCtorEq, if_false, h.ack, h.request,
        phaseAfter]
    | cons code operands =>
      refine ⟨_, rfl, hrun.trans (congrArg Host.Outcome.next ?_)⟩
      simp only [State.setMgmt, State.afterTransaction, Mgmt.endWith, Mgmt.receiving, reduceCtorEq, if_false, h.ack,
        phaseAfter]
  · exact ⟨_, busRun_write_incomplete h hb, receiving_ack⟩
  · refine ⟨fun early => ⟨busRun_other h hfirst hstart hstop early, ?_⟩, hack⟩
    refine (busRun_append (busRun_other h hfirst hstart hstop early)).trans ((hends _).trans (congrArg Host.Outcome.next ?_))
    simp only [State.setMgmt, State.afterTransaction, Mgmt.endWith, reduceCtorEq, if_false, h.ack, h.request, phaseAfter]
  · exact address_ne_zero hlegal (he.symm.trans hz)

end Sys2Proof.Machine
end
